-- ==== Sys2Proof/Word.lean ====
section
/-! DEFINITION. The words of the SPK-8 engine (00_scope.md sections 5 and 6): memory cells, the pc,
register words, and the plain width conversions of the spec's notation. -/

namespace Sys2Proof

/-- What holds one memory cell. The width of a cell is the parameter `CELL_BITS` (`Config.cellBits`, 20_memory.md R61);
32 bits hold the cells of every instance, because `zext_32` of a cell is exact (30_encoding.md R95; log 1). -/
abbrev Cell := BitVec 32

/-- What holds a pc value: `PC_BITS` = `CELL_BITS + 1` is at most 33 bits (`Config.pcBits`, 10_state.md R26).
`data_index` has the same width (R34). -/
abbrev Addr := BitVec 33

/-- A 32-bit word: the widest register and the result of `Resolve` (30_encoding.md R94). -/
abbrev Word := BitVec 32

/-- A 16-bit register (10_state.md R21). -/
abbrev Half := BitVec 16

/-- An 8-bit register (10_state.md R21), and the `FlagsByte` view (R31). -/
abbrev Byte := BitVec 8

/-- A colour index 0..15 (00_scope.md R5, 43_int.md R183). -/
abbrev Color := BitVec 4

/-- `zext_32` of a cell (30_encoding.md R95). -/
def zextCell (c : Cell) : Word := c.setWidth 32

/-- A cell as a pc value: a jump target is the raw cell (44_jumps.md R210). -/
def cellAddr (c : Cell) : Addr := c.setWidth 33

/-- `sint_32`: the two's-complement reading of a word (00_scope.md section 6). -/
def sint (v : Word) : Int := v.toInt

/-- `trunc_w` of a word for w of at most 32 bits, as a word again (00_scope.md section 6). -/
def truncWord (w : Nat) (v : Word) : Word := (v.setWidth w).setWidth 32

end Sys2Proof
end

