-- ==== Sys2Proof/Config.lean ====
section
/-! DEFINITION. The implementation parameters (00_scope.md R3 and section 5). They are fixed per machine
instance; the model holds them in `State.cfg` (log 2). Their default values are `Config.default`, in Decode.lean. -/

namespace Sys2Proof

/-- The section context (10_state.md R32). There is no rom context. -/
inductive Section where
  | text
  | data
deriving DecidableEq, Repr

/-- The parameters of 00_scope.md section 5, one field per row, but for those that are derived from others
(`Config.pcBits`, `Config.nregs`) and for `PALETTE` (`Config.palette`). -/
structure Config where
  /-- `MEM_SIZE`, the number of memory cells. -/
  memSize : Nat
  /-- `CELL_BITS`, the width of one memory cell (20_memory.md R61, decision D1). -/
  cellBits : Nat
  /-- `INT_LOC`, the interrupt/syscall-code cell. -/
  intLoc : Nat
  /-- `COM0`, the reserved communication cell: an ordinary cell that no rule names (20_memory.md R66). -/
  com0 : Nat
  /-- `VAR_LOC`, the base of the data window. -/
  varLoc : Nat
  /-- `REG_BASE`, the operand value that names register code 0. -/
  regBase : Nat
  opNop : Cell
  opHlt : Cell
  opMov : Cell
  opInt : Cell
  opJmp : Cell
  opAdd : Cell
  opSub : Cell
  opMul : Cell
  opDiv : Cell
  opInc : Cell
  opDec : Cell
  opJe : Cell
  opJne : Cell
  opJz : Cell
  opJnz : Cell
  opAnd : Cell
  opUld : Cell
  /-- The 0xCC breakpoint (30_encoding.md R92: its value is the source's). -/
  opBrk : Cell
  secData : Cell
  secRom : Cell
  secText : Cell
  /-- `INITIAL_SECTION`, the section context after reset. -/
  initialSection : Section
  /-- `MOV_MODE8` and `MOV_MODE16`, the two mov modes (30_encoding.md R101). -/
  movMode8 : Cell
  movMode16 : Cell
  /-- The interrupt codes (60_exceptions.md R270). -/
  intReserved : Cell
  intSingleStep : Cell
  intBreakpoint : Cell
  intInvalidOpcode : Cell
  intDoubleFault : Cell
  intOutOfMemory : Cell
  /-- `SYSCALL_CODE`, the int code that selects the syscall dispatcher. -/
  syscallCode : Cell
  /-- `SYS_RESTART` and `SYS_WRITE`, the syscall numbers read from EAX (43_int.md R181). -/
  sysRestart : Word
  sysWrite : Word
deriving DecidableEq, Repr

/-- `NREGS`: the number of coded registers (00_scope.md section 5, derived). -/
def Config.nregs : Nat := 13

/-- `PC_BITS`, the width of pc and of `data_index` (00_scope.md section 5, derived; 10_state.md R26, R34). -/
def Config.pcBits (cfg : Config) : Nat := cfg.cellBits + 1

/-- The value fits a cell of `CELL_BITS` bits (20_memory.md R61). -/
def Config.isCell (cfg : Config) (c : Cell) : Bool := decide (c.toNat < 2 ^ cfg.cellBits)

/-- The operand value `c` lies in the register window `REG_BASE .. REG_BASE + 12` (20_memory.md R67). -/
def Config.inWindow (cfg : Config) (c : Cell) : Bool :=
  decide (cfg.regBase ≤ c.toNat) && decide (c.toNat < cfg.regBase + Config.nregs)

/-- A colour's name. The spec lists none (92_eei_decisions.md D24). -/
abbrev ColorName := String

/-- `PALETTE`: colour index to colour name, OPEN (00_scope.md section 5, 93_implementation_defined.md I11).
An uninterpreted constant: no engine rule reads it, and nothing can be proved of a name (log 11). -/
opaque Config.palette : Fin 16 → ColorName

end Sys2Proof
end

