-- ==== Sys2Proof/Syntax.lean ====
section
/-! DEFINITION. The instructions: one constructor per row of spec/opcode_table.json, with their operands by
kind (30_encoding.md R94). -/

namespace Sys2Proof

/-- The thirteen coded registers (10_state.md R21). The index registers EDI, ESI, ESP and EBP have no code and
no operand names them. -/
inductive Reg where
  | eax | ebx | ecx | edx
  | ax | bx | cx | dx
  | bax | bbx | bcx | bdx
  | rs
deriving DecidableEq, Repr

/-- A value operand (30_encoding.md R94, R99): a register named through the window, or a literal. -/
inductive Value where
  | reg (r : Reg)
  | lit (c : Cell)
deriving DecidableEq, Repr

/-- A designator operand (30_encoding.md R100): a register spelled by its code 0..12, a register spelled by
its window address, or a cell that designates no register. -/
inductive Dest where
  | code (r : Reg)
  | window (r : Reg)
  | noReg (c : Cell)
deriving DecidableEq, Repr

/-- A mov mode cell (30_encoding.md R101): the 8-bit mode, the 16-bit mode, or any other value. -/
inductive Mode where
  | mode8
  | mode16
  | other (c : Cell)
deriving DecidableEq, Repr

/-- What the opcode cell alone says (30_encoding.md R91, R92, R93): which row of the table it is. -/
inductive Opcode where
  | nop | hlt | mov | int | jmp | add | sub | mul | div | inc | dec
  | je | jne | jz | jnz | and | uld | brk
  | secData | secText | secRom
deriving DecidableEq, Repr

/-- One instruction: an opcode cell with its operand cells (30_encoding.md R90, R92). The three sentinel rows
of the table are here too: at an instruction position they are read like an opcode with no operands (R135),
and SEC_ROM is the reserved one, which the engine has no case for (R103; log 10). -/
inductive Instr where
  | nop
  | hlt
  | mov (mode : Mode) (dest : Dest) (src : Value)
  | int (code : Cell)
  | jmp (addr : Cell)
  | add (v1 v2 : Value)
  | sub (v1 v2 : Value)
  | mul (v1 v2 : Value)
  | div (v1 v2 : Value)
  | inc (reg : Dest)
  | dec (reg : Dest)
  | je (cmp : Value) (addr : Cell)
  | jne (cmp : Value) (addr : Cell)
  | jz (addr : Cell)
  | jnz (addr : Cell)
  | and (v1 v2 : Value)
  | uld
  | brk
  | secData
  | secText
  | secRom
deriving DecidableEq, Repr

/-- The row of the opcode table an instruction belongs to. -/
def Instr.opcode : Instr → Opcode
  | .nop => .nop
  | .hlt => .hlt
  | .mov _ _ _ => .mov
  | .int _ => .int
  | .jmp _ => .jmp
  | .add _ _ => .add
  | .sub _ _ => .sub
  | .mul _ _ => .mul
  | .div _ _ => .div
  | .inc _ => .inc
  | .dec _ => .dec
  | .je _ _ => .je
  | .jne _ _ => .jne
  | .jz _ => .jz
  | .jnz _ => .jnz
  | .and _ _ => .and
  | .uld => .uld
  | .brk => .brk
  | .secData => .secData
  | .secText => .secText
  | .secRom => .secRom

end Sys2Proof
end

