-- ==== Sys2Proof/WellFormed.lean ====
section
/-! DEFINITION. Which configurations are machine instances of the spec, which instruction terms a cell sequence
can spell, and which images `Load` accepts. -/

namespace Sys2Proof

/-- The values of `OP_*` and `SEC_*` (30_encoding.md R92, R93). -/
def Config.codes (cfg : Config) : List Cell :=
  [cfg.secData, cfg.secText, cfg.opNop, cfg.opHlt, cfg.opMov, cfg.opInt, cfg.opJmp, cfg.opAdd, cfg.opSub,
   cfg.opMul, cfg.opDiv, cfg.opInc, cfg.opDec, cfg.opJe, cfg.opJne, cfg.opJz, cfg.opJnz, cfg.opAnd,
   cfg.opUld, cfg.opBrk, cfg.secRom]

/-- `1 <= MEM_SIZE <= 2^CELL_BITS` (00_scope.md section 5, decision D35). -/
def Config.sizeOk (cfg : Config) : Bool :=
  decide (1 ≤ cfg.memSize) && decide (cfg.memSize ≤ 2 ^ cfg.cellBits)

/-- The parameters that are cell values: the codes of the table, the mov modes and the interrupt codes. -/
def Config.cellValues (cfg : Config) : List Cell :=
  cfg.codes ++ [cfg.movMode8, cfg.movMode16, cfg.intReserved, cfg.intSingleStep, cfg.intBreakpoint,
    cfg.intInvalidOpcode, cfg.intDoubleFault, cfg.intOutOfMemory, cfg.syscallCode]

/-- `zext_32` holds a cell (30_encoding.md R95), and a cell holds every cell-valued parameter and every register
reference (20_memory.md R61; log 1). The width 32 is admitted although 30_encoding.md R97 (no literal is negative) and the
pseudocode of 45_alu.md R234 and R237 clash there (DESIGN CHOICE, log 25). -/
def Config.widthOk (cfg : Config) : Bool :=
  decide (cfg.cellBits ≤ 32) && cfg.cellValues.all cfg.isCell
    && decide (cfg.regBase + Config.nregs ≤ 2 ^ cfg.cellBits)

/-- The opcode values are distinct, and distinct from the sentinels (decision D2). -/
def Config.codesOk (cfg : Config) : Bool := decide cfg.codes.Nodup

/-- The values the source itself gives stand: 0xCC, the address constants, the window base, MOV_MODE8 and the
Restart number (00_scope.md section 5, column "Ground"; log 3). -/
def Config.sourceOk (cfg : Config) : Bool :=
  decide (cfg.opBrk = 0xCC#32) && decide (cfg.intLoc = 0xF000) && decide (cfg.com0 = 0xF001)
    && decide (cfg.varLoc = 0xFF00) && decide (cfg.regBase = 0x10FF8) && decide (cfg.movMode8 = 0x07#32)
    && decide (cfg.sysRestart = 0#32)

/-- A configuration that is a machine instance of the spec. -/
def Config.wellFormed (cfg : Config) : Bool := cfg.sizeOk && cfg.widthOk && cfg.codesOk && cfg.sourceOk

/-- A literal in a value position is a cell outside the register window (30_encoding.md R96). -/
def Value.wellFormed (cfg : Config) : Value → Bool
  | .reg _ => true
  | .lit c => cfg.isCell c && !cfg.inWindow c

/-- A cell that designates no register is neither a code 0..12 nor in the window (30_encoding.md R100). -/
def Dest.wellFormed (cfg : Config) : Dest → Bool
  | .code _ => true
  | .window _ => true
  | .noReg c => cfg.isCell c && decide (Config.nregs ≤ c.toNat) && !cfg.inWindow c

/-- The other mode values are neither of the two modes (30_encoding.md R101). `mode16` has a cell of its own
only where `MOV_MODE16` is not `MOV_MODE8`. -/
def Mode.wellFormed (cfg : Config) : Mode → Bool
  | .mode8 => true
  | .mode16 => decide (cfg.movMode16 ≠ cfg.movMode8)
  | .other c => cfg.isCell c && decide (c ≠ cfg.movMode8) && decide (c ≠ cfg.movMode16)

/-- An instruction term that some cells spell. Addresses and codes are raw cells (R94). -/
def Instr.wellFormed (cfg : Config) : Instr → Bool
  | .nop => true
  | .hlt => true
  | .mov m d v => m.wellFormed cfg && d.wellFormed cfg && v.wellFormed cfg
  | .int c => cfg.isCell c
  | .jmp a => cfg.isCell a
  | .add v w => v.wellFormed cfg && w.wellFormed cfg
  | .sub v w => v.wellFormed cfg && w.wellFormed cfg
  | .mul v w => v.wellFormed cfg && w.wellFormed cfg
  | .div v w => v.wellFormed cfg && w.wellFormed cfg
  | .inc d => d.wellFormed cfg
  | .dec d => d.wellFormed cfg
  | .je v a => v.wellFormed cfg && cfg.isCell a
  | .jne v a => v.wellFormed cfg && cfg.isCell a
  | .jz a => cfg.isCell a
  | .jnz a => cfg.isCell a
  | .and v w => v.wellFormed cfg && w.wellFormed cfg
  | .uld => true
  | .brk => true
  | .secData => true
  | .secText => true
  | .secRom => true

/-- `Load` requires `len(image) <= MEM_SIZE` and elements below `2^CELL_BITS` (70_reset_and_hazards.md R312,
93_implementation_defined.md I16). -/
def Config.imageOk (cfg : Config) (image : List Cell) : Bool :=
  decide (image.length ≤ cfg.memSize) && image.all cfg.isCell

end Sys2Proof
end

