-- ==== Sys2Proof/Decode.lean ====
section
/-! DEFINITION. The decoder and the encoder (30_encoding.md), written from one table of opcode values and one
reading of each operand kind. -/

namespace Sys2Proof

/-- The defaults of 00_scope.md section 5 and 30_encoding.md R92, R93 (the values marked "decision" there are
the spec's own choices, D2, D3, D6, D13, D18, D23, D35). -/
def Config.default : Config where
  memSize := 65536
  cellBits := 21
  intLoc := 0xF000
  com0 := 0xF001
  varLoc := 0xFF00
  regBase := 0x10FF8
  opNop := 0x00#32
  opHlt := 0x01#32
  opMov := 0x02#32
  opInt := 0x03#32
  opJmp := 0x04#32
  opAdd := 0x05#32
  opSub := 0x06#32
  opMul := 0x07#32
  opDiv := 0x08#32
  opInc := 0x09#32
  opDec := 0x0A#32
  opJe := 0x0B#32
  opJne := 0x0C#32
  opJz := 0x0D#32
  opJnz := 0x0E#32
  opAnd := 0x0F#32
  opUld := 0x10#32
  opBrk := 0xCC#32
  secData := 0xFD#32
  secRom := 0xFE#32
  secText := 0xFF#32
  initialSection := .text
  movMode8 := 0x07#32
  movMode16 := 0x08#32
  intReserved := 0#32
  intSingleStep := 1#32
  intBreakpoint := 2#32
  intInvalidOpcode := 3#32
  intDoubleFault := 4#32
  intOutOfMemory := 5#32
  syscallCode := 0x80#32
  sysRestart := 0#32
  sysWrite := 1#32

/-- The cell value of each row of the opcode table (30_encoding.md R92, R93). -/
def Opcode.value (cfg : Config) : Opcode → Cell
  | .nop => cfg.opNop
  | .hlt => cfg.opHlt
  | .mov => cfg.opMov
  | .int => cfg.opInt
  | .jmp => cfg.opJmp
  | .add => cfg.opAdd
  | .sub => cfg.opSub
  | .mul => cfg.opMul
  | .div => cfg.opDiv
  | .inc => cfg.opInc
  | .dec => cfg.opDec
  | .je => cfg.opJe
  | .jne => cfg.opJne
  | .jz => cfg.opJz
  | .jnz => cfg.opJnz
  | .and => cfg.opAnd
  | .uld => cfg.opUld
  | .brk => cfg.opBrk
  | .secData => cfg.secData
  | .secText => cfg.secText
  | .secRom => cfg.secRom

/-- The number k of operand cells (30_encoding.md R92). -/
def Opcode.operands : Opcode → Nat
  | .mov => 3
  | .add | .sub | .mul | .div | .and | .je | .jne => 2
  | .int | .jmp | .inc | .dec | .jz | .jnz => 1
  | .nop | .hlt | .uld | .brk | .secData | .secText | .secRom => 0

/-- The rows in the order a cell is compared with them: the two sentinels first, then the opcodes, and the
reserved SEC_ROM last (40_cycle.md R130, R135; 30_encoding.md R103). -/
def Opcode.all : List Opcode :=
  [.secData, .secText, .nop, .hlt, .mov, .int, .jmp, .add, .sub, .mul, .div, .inc, .dec,
   .je, .jne, .jz, .jnz, .and, .uld, .brk, .secRom]

/-- The length `1 + k` of an instruction in cells (30_encoding.md R91). -/
def Instr.length (i : Instr) : Nat := 1 + i.opcode.operands

/-- The register codes (10_state.md R21, order: decision D7). -/
def Reg.code : Reg → Nat
  | .eax => 0
  | .ebx => 1
  | .ecx => 2
  | .edx => 3
  | .ax => 4
  | .bx => 5
  | .cx => 6
  | .dx => 7
  | .bax => 8
  | .bbx => 9
  | .bcx => 10
  | .bdx => 11
  | .rs => 12

/-- The coded registers in the order of their codes. -/
def Reg.all : List Reg :=
  [.eax, .ebx, .ecx, .edx, .ax, .bx, .cx, .dx, .bax, .bbx, .bcx, .bdx, .rs]

/-- The register with code n, if n is a register code (10_state.md R21). -/
def Reg.ofCode (n : Nat) : Option Reg := Reg.all[n]?

/-- A value operand's cell (30_encoding.md R99): in the register window it names a register, elsewhere it is
a literal. -/
def Value.ofCell (cfg : Config) (c : Cell) : Value :=
  if cfg.inWindow c then
    match Reg.ofCode (c.toNat - cfg.regBase) with
    | some r => .reg r
    | none => .lit c
  else .lit c

/-- The cell of a value operand. -/
def Value.toCell (cfg : Config) : Value → Cell
  | .reg r => BitVec.ofNat 32 (cfg.regBase + r.code)
  | .lit c => c

/-- A designator's cell (30_encoding.md R100): a register code, else a window address, else none. -/
def Dest.ofCell (cfg : Config) (c : Cell) : Dest :=
  match Reg.ofCode c.toNat with
  | some r => .code r
  | none =>
    if cfg.inWindow c then
      match Reg.ofCode (c.toNat - cfg.regBase) with
      | some r => .window r
      | none => .noReg c
    else .noReg c

/-- The cell of a designator. -/
def Dest.toCell (cfg : Config) : Dest → Cell
  | .code r => BitVec.ofNat 32 r.code
  | .window r => BitVec.ofNat 32 (cfg.regBase + r.code)
  | .noReg c => c

/-- A mov mode cell (30_encoding.md R101). -/
def Mode.ofCell (cfg : Config) (c : Cell) : Mode :=
  if c = cfg.movMode8 then .mode8 else if c = cfg.movMode16 then .mode16 else .other c

/-- The cell of a mov mode. -/
def Mode.toCell (cfg : Config) : Mode → Cell
  | .mode8 => cfg.movMode8
  | .mode16 => cfg.movMode16
  | .other c => c

/-- Why cells do not decode to an instruction. None of these stops the machine: 40_cycle.md says what the
engine does with each. -/
inductive Reject where
  /-- There is no cell at all: the fetch is at or past `MEM_SIZE`. -/
  | noCell
  /-- The cell is an unrecognized opcode (30_encoding.md R102). -/
  | unrecognized (c : Cell)
  /-- An operand cell is missing (40_cycle.md R139). -/
  | truncated (op : Opcode)
deriving DecidableEq, Repr

/-- The row a cell at an instruction position stands for (30_encoding.md R105). -/
def decodeOpcode (cfg : Config) (c : Cell) : Option Opcode :=
  Opcode.all.find? fun op => decide (op.value cfg = c)

/-- Reads the operand cells of an opcode, in order (30_encoding.md R92, R94, R98). -/
def decodeOperands (cfg : Config) : Opcode → List Cell → Option Instr
  | .nop, _ => some .nop
  | .hlt, _ => some .hlt
  | .mov, m :: d :: v :: _ => some (.mov (Mode.ofCell cfg m) (Dest.ofCell cfg d) (Value.ofCell cfg v))
  | .mov, _ => none
  | .int, c :: _ => some (.int c)
  | .int, _ => none
  | .jmp, a :: _ => some (.jmp a)
  | .jmp, _ => none
  | .add, p :: q :: _ => some (.add (Value.ofCell cfg p) (Value.ofCell cfg q))
  | .add, _ => none
  | .sub, p :: q :: _ => some (.sub (Value.ofCell cfg p) (Value.ofCell cfg q))
  | .sub, _ => none
  | .mul, p :: q :: _ => some (.mul (Value.ofCell cfg p) (Value.ofCell cfg q))
  | .mul, _ => none
  | .div, p :: q :: _ => some (.div (Value.ofCell cfg p) (Value.ofCell cfg q))
  | .div, _ => none
  | .inc, d :: _ => some (.inc (Dest.ofCell cfg d))
  | .inc, _ => none
  | .dec, d :: _ => some (.dec (Dest.ofCell cfg d))
  | .dec, _ => none
  | .je, p :: a :: _ => some (.je (Value.ofCell cfg p) a)
  | .je, _ => none
  | .jne, p :: a :: _ => some (.jne (Value.ofCell cfg p) a)
  | .jne, _ => none
  | .jz, a :: _ => some (.jz a)
  | .jz, _ => none
  | .jnz, a :: _ => some (.jnz a)
  | .jnz, _ => none
  | .and, p :: q :: _ => some (.and (Value.ofCell cfg p) (Value.ofCell cfg q))
  | .and, _ => none
  | .uld, _ => some .uld
  | .brk, _ => some .brk
  | .secData, _ => some .secData
  | .secText, _ => some .secText
  | .secRom, _ => some .secRom

/-- The decoder: the instruction that starts at the first cell (30_encoding.md R90, R91, R105). -/
def decode (cfg : Config) : List Cell → Except Reject Instr
  | [] => .error .noCell
  | c :: rest =>
    match decodeOpcode cfg c with
    | none => .error (.unrecognized c)
    | some op =>
      match decodeOperands cfg op rest with
      | none => .error (.truncated op)
      | some i => .ok i

/-- The operand cells of an instruction, in order (30_encoding.md R92). -/
def encodeOperands (cfg : Config) : Instr → List Cell
  | .nop => []
  | .hlt => []
  | .mov m d v => [m.toCell cfg, d.toCell cfg, v.toCell cfg]
  | .int c => [c]
  | .jmp a => [a]
  | .add p q => [p.toCell cfg, q.toCell cfg]
  | .sub p q => [p.toCell cfg, q.toCell cfg]
  | .mul p q => [p.toCell cfg, q.toCell cfg]
  | .div p q => [p.toCell cfg, q.toCell cfg]
  | .inc d => [d.toCell cfg]
  | .dec d => [d.toCell cfg]
  | .je p a => [p.toCell cfg, a]
  | .jne p a => [p.toCell cfg, a]
  | .jz a => [a]
  | .jnz a => [a]
  | .and p q => [p.toCell cfg, q.toCell cfg]
  | .uld => []
  | .brk => []
  | .secData => []
  | .secText => []
  | .secRom => []

/-- The encoder: the cells of an instruction (30_encoding.md R90). -/
def encode (cfg : Config) (i : Instr) : List Cell :=
  i.opcode.value cfg :: encodeOperands cfg i

/-- The longest instruction, mov, has four cells (30_encoding.md R92). -/
def maxLength : Nat := 4

/-- The cells of a bit string numbered as spec/opcode_table.json numbers it, with the default `CELL_BITS`: cell n is
bits `21 * n + 20 .. 21 * n`, and every bit from `nbits` up is 0 (log 13). -/
def tableCells (nbits w : Nat) : List Cell :=
  (List.range maxLength).map fun n =>
    truncWord Config.default.cellBits (BitVec.ofNat 32 ((w % 2 ^ nbits) >>> (Config.default.cellBits * n)))

/-- The instruction the decoder reads from a row of the opcode table, under the default parameters. -/
def decodeTableWord (nbits w : Nat) : Option Instr :=
  match decode Config.default (tableCells nbits w) with
  | .ok i => some i
  | .error _ => none

end Sys2Proof
end

