-- ==== Sys2Proof/Machine/State.lean ====
section
/-! DEFINITION. The state of the machine (10_state.md, 20_memory.md), the reasons a step can stop, and the state
right after reset. -/

namespace Sys2Proof.Machine

/-- The register file: seventeen independent registers (10_state.md R20, R21). None is a part of another. -/
structure RegFile where
  eax : Word
  ebx : Word
  ecx : Word
  edx : Word
  ax : Half
  bx : Half
  cx : Half
  dx : Half
  bax : Byte
  bbx : Byte
  bcx : Byte
  bdx : Byte
  rs : Word
  edi : Word
  esi : Word
  esp : Word
  ebp : Word
deriving DecidableEq, Repr

/-- The nine flags (10_state.md R28). -/
structure Flags where
  /-- Zero. -/
  z : Bool
  /-- Carry/borrow. -/
  c : Bool
  /-- Overflow. -/
  o : Bool
  /-- Sign. -/
  s : Bool
  /-- Busy. -/
  b : Bool
  /-- Trap / single step. -/
  t : Bool
  /-- Interrupts disabled. -/
  i : Bool
  /-- Interrupt pending. -/
  e : Bool
  /-- Restart requested. -/
  r : Bool
deriving DecidableEq, Repr

/-- The cause of a debug suspension (10_state.md R33). -/
inductive AckCause where
  | singleStep
  | breakpoint
deriving DecidableEq, Repr

/-- Where the engine goes on after the host's `Ack` (10_state.md R33, 60_exceptions.md R279). -/
inductive Resume where
  | afterTrapCheck
  | nextIteration
deriving DecidableEq, Repr

/-- The cause of the terminal faulted state (10_state.md R33). It is part of the run state: entering it is a
next state of the machine, not a stop of the model. -/
inductive FaultCause where
  | outOfMemory
  | doubleFault
  | divideByZero
deriving DecidableEq, Repr

/-- The run state (10_state.md R33). -/
inductive RunState where
  | idle
  | running
  | awaitAck (cause : AckCause) (resume : Resume)
  | halted
  | faulted (cause : FaultCause)
deriving DecidableEq, Repr

/-- The events of the display port (00_scope.md R5). -/
inductive DisplayEvent where
  | drawText (t : List Cell)
  | clear (k : Color)
  | plotPixel (x y : Half) (k : Color)
  | setColor (k : Color)
  | resetScroll
deriving DecidableEq, Repr

/-- The events of the report port (00_scope.md R6). -/
inductive ReportEvent where
  | invalidOpcode (cell : Cell) (address : Addr)
  | interrupt (code : Cell) (address : Addr)
deriving DecidableEq, Repr

/-- The host operations (00_scope.md R4). -/
inductive HostOp where
  | load (image : List Cell)
  | start
  | ack
  | setTrap (b : Bool)
  | requestRestart
  | readState
  | readPorts
deriving DecidableEq, Repr

/-- Whose turn it is: the two agents that take steps are the engine and the host (00_scope.md R1; log 4). -/
inductive Turn where
  | engine
  | host (op : HostOp)
deriving DecidableEq, Repr

/-- The cells of memory that are not 0, by rising address; an unlisted cell is 0, as at construction
(20_memory.md R60, 70_reset_and_hazards.md R310; log 8). -/
abbrev Memory := List (Nat × Cell)

/-- The whole machine: the engine's state tuple of 10_state.md, and the model's own `cfg` and `schedule`. -/
structure State where
  /-- The parameters of this machine instance (00_scope.md R3). The model's own field: no step changes it (log 2). -/
  cfg : Config
  /-- The register file (10_state.md R20). -/
  regs : RegFile
  /-- The flags (10_state.md R28). -/
  flags : Flags
  /-- The program counter (10_state.md R26). -/
  pc : Addr
  /-- `section`, the active-section context (10_state.md R32). -/
  sect : Section
  /-- `data_index` (10_state.md R34). -/
  dataIndex : Addr
  /-- `run`, the run state (10_state.md R33). -/
  run : RunState
  /-- `M`, the memory (20_memory.md R60). -/
  mem : Memory
  /-- `M0`, the retained original image (10_state.md R35). -/
  m0 : List Cell
  /-- The pending events of the display port (10_state.md R36). -/
  display : List DisplayEvent
  /-- The pending events of the report port (10_state.md R36). -/
  report : List ReportEvent
  /-- Whose turns come next; after the last, the engine's. The model's own field (log 4). -/
  schedule : List Turn
deriving DecidableEq, Repr

/-- Why the model would stop with a fault. There is no such reason: every fault of this machine is a run state
that it enters (60_exceptions.md R271), so the type is empty. Safe: nothing is cut short. -/
inductive Fault : Type
deriving DecidableEq, Repr

/-- Why the model would refuse to go on. -/
inductive Refusal where
  /-- An instruction that has no meaning yet. Raised by no arm of `exec`: every instruction has its meaning.
  Safe: a claim about such an instruction could not be proved. -/
  | notModelled (mnemonic : String)
deriving DecidableEq, Repr

/-- Every register at 0 (10_state.md R37). -/
def RegFile.zero : RegFile :=
  ⟨0, 0, 0, 0, 0, 0, 0, 0, 0, 0, 0, 0, 0, 0, 0, 0, 0⟩

/-- Every flag at 0 (10_state.md R28, R37). -/
def Flags.zero : Flags :=
  ⟨false, false, false, false, false, false, false, false, false⟩

/-- The machine at construction (70_reset_and_hazards.md R310): registers and flags 0, memory all zero, no
image retained, run state Idle. The ports are empty (log 17), and no turn is scheduled (log 4). -/
def State.reset : State where
  cfg := Config.default
  regs := RegFile.zero
  flags := Flags.zero
  pc := 0
  sect := Config.default.initialSection
  dataIndex := 0
  run := .idle
  mem := []
  m0 := []
  display := []
  report := []
  schedule := []

end Sys2Proof.Machine
end

