-- ==== Sys2Proof/Machine/Ops.lean ====
section
/-! DEFINITION. The named operations over memory, registers, ports and run state. The meanings are written over
these alone. -/

namespace Sys2Proof.Machine

/-! ### Memory as a list of cells (20_memory.md) -/

/-- The cell at an address: what the list gives, else 0 (20_memory.md R60; 70_reset_and_hazards.md R310, R312). -/
def Memory.read : Memory → Nat → Cell
  | [], _ => 0
  | (b, v) :: rest, a => if a = b then v else Memory.read rest a

/-- The memory with nothing listed at an address. -/
def Memory.erase (m : Memory) (a : Nat) : Memory := m.filter fun p => decide (p.1 ≠ a)

/-- The memory with a pair put in at its place in the order of addresses. -/
def Memory.insert : Memory → Nat → Cell → Memory
  | [], a, v => [(a, v)]
  | (b, w) :: rest, a, v => if a < b then (a, v) :: (b, w) :: rest else (b, w) :: Memory.insert rest a v

/-- Writes one cell (20_memory.md R72), keeping the canonical form: a cell that becomes 0 is unlisted. -/
def Memory.write (m : Memory) (a : Nat) (v : Cell) : Memory :=
  if v = 0 then Memory.erase m a else Memory.insert (Memory.erase m a) a v

/-- The canonical form: addresses strictly rising, every listed address below `size`, no cell listed as 0, every cell
of at most `bits` bits. -/
def Memory.wf (size bits : Nat) (m : Memory) : Bool :=
  decide ((m.map Prod.fst).Pairwise (· < ·))
    && m.all fun p => decide (p.1 < size) && decide (p.2 ≠ 0) && decide (p.2.toNat < 2 ^ bits)

/-- The memory that holds an image from address `a` on and 0 elsewhere (60_exceptions.md R283,
70_reset_and_hazards.md R312). -/
def Memory.ofImage : List Cell → Nat → Memory
  | [], _ => []
  | c :: cs, a => if c = 0 then Memory.ofImage cs (a + 1) else (a, c) :: Memory.ofImage cs (a + 1)

/-- The cells `base .. base + n - 1`, in order. -/
def Memory.readRange (m : Memory) (base n : Nat) : List Cell :=
  (List.range n).map fun i => Memory.read m (base + i)

/-- Writes 0 to the cells `base .. base + n - 1`, in order (46_uld.md R260). -/
def Memory.clearRange (m : Memory) (base : Nat) : Nat → Memory
  | 0 => m
  | n + 1 => Memory.write (Memory.clearRange m base n) (base + n) 0

/-! ### Registers (10_state.md section 1) -/

/-- The width of a coded register in bits (10_state.md R21). -/
def regWidth : Reg → Nat
  | .eax | .ebx | .ecx | .edx | .rs => 32
  | .ax | .bx | .cx | .dx => 16
  | .bax | .bbx | .bcx | .bdx => 8

/-- Reads a coded register, zero-extended to a word (10_state.md R23, 30_encoding.md R99). -/
def RegFile.read (f : RegFile) : Reg → Word
  | .eax => f.eax
  | .ebx => f.ebx
  | .ecx => f.ecx
  | .edx => f.edx
  | .ax => f.ax.setWidth 32
  | .bx => f.bx.setWidth 32
  | .cx => f.cx.setWidth 32
  | .dx => f.dx.setWidth 32
  | .bax => f.bax.setWidth 32
  | .bbx => f.bbx.setWidth 32
  | .bcx => f.bcx.setWidth 32
  | .bdx => f.bdx.setWidth 32
  | .rs => f.rs

/-- Writes a coded register, truncating to its width; no other register changes (10_state.md R22, decision D9). -/
def RegFile.write (f : RegFile) : Reg → Word → RegFile
  | .eax, v => { f with eax := v }
  | .ebx, v => { f with ebx := v }
  | .ecx, v => { f with ecx := v }
  | .edx, v => { f with edx := v }
  | .ax, v => { f with ax := v.setWidth 16 }
  | .bx, v => { f with bx := v.setWidth 16 }
  | .cx, v => { f with cx := v.setWidth 16 }
  | .dx, v => { f with dx := v.setWidth 16 }
  | .bax, v => { f with bax := v.setWidth 8 }
  | .bbx, v => { f with bbx := v.setWidth 8 }
  | .bcx, v => { f with bcx := v.setWidth 8 }
  | .bdx, v => { f with bdx := v.setWidth 8 }
  | .rs, v => { f with rs := v }

/-! ### One update per field of State -/

def State.withRegs (s : State) (v : RegFile) : State := { s with regs := v }
def State.withFlags (s : State) (v : Flags) : State := { s with flags := v }
def State.withPc (s : State) (v : Addr) : State := { s with pc := v }
def State.withSect (s : State) (v : Section) : State := { s with sect := v }
def State.withDataIndex (s : State) (v : Addr) : State := { s with dataIndex := v }
def State.withRun (s : State) (v : RunState) : State := { s with run := v }
def State.withMem (s : State) (v : Memory) : State := { s with mem := v }
def State.withM0 (s : State) (v : List Cell) : State := { s with m0 := v }
def State.withDisplay (s : State) (v : List DisplayEvent) : State := { s with display := v }
def State.withReport (s : State) (v : List ReportEvent) : State := { s with report := v }
def State.withSchedule (s : State) (v : List Turn) : State := { s with schedule := v }

/-- Moves pc past n cells: n uses of `Fetch()` (40_cycle.md R131). -/
def State.advance (s : State) (n : Nat) : State := s.withPc (s.pc + BitVec.ofNat 33 n)

/-- `x[r]` (10_state.md R23). -/
def State.readReg (s : State) (r : Reg) : Word := s.regs.read r

/-- `x[r] <- v` (10_state.md R22). -/
def State.writeReg (s : State) (r : Reg) (v : Word) : State := s.withRegs (s.regs.write r v)

/-- `MemRead(a, 1)` (20_memory.md R63). -/
def State.memRead (s : State) (a : Nat) : Except FaultCause Cell :=
  if a < s.cfg.memSize then .ok (Memory.read s.mem a) else .error .outOfMemory

/-- `trunc_CELL_BITS(v)`, the cell that `MemWrite` stores (00_scope.md section 6). -/
def State.trimCell (s : State) (v : Cell) : Cell := truncWord s.cfg.cellBits v

/-- `MemWrite(a, 1, v)` (20_memory.md R63; 00_scope.md section 6). -/
def State.memWrite (s : State) (a : Nat) (v : Cell) : Except FaultCause State :=
  if a < s.cfg.memSize then .ok (s.withMem (Memory.write s.mem a (s.trimCell v))) else .error .outOfMemory

/-- The cells `base .. base + n - 1` all exist, so that n accesses from `base` on do not fault (20_memory.md R63). -/
def State.cellsExist (s : State) (base n : Nat) : Bool := decide (n = 0) || decide (base + n ≤ s.cfg.memSize)

/-- `emit Display(e)` (00_scope.md R5). -/
def State.emitDisplay (s : State) (e : DisplayEvent) : State := s.withDisplay (s.display ++ [e])

/-- `emit Report(e)` (00_scope.md R6). -/
def State.emitReport (s : State) (e : ReportEvent) : State := s.withReport (s.report ++ [e])

/-! ### Events (60_exceptions.md) -/

/-- What an iteration can raise, by its handling (60_exceptions.md R270). -/
inductive Event where
  | fault (cause : FaultCause)
  | suspend (cause : AckCause) (resume : Resume)
  | report (e : ReportEvent)
deriving DecidableEq, Repr

/-- TAKING AN EVENT. A fault and a debug suspension change the run state and nothing else: no register is saved,
pc stays where it is and control goes nowhere (60_exceptions.md R271, R278). A report appends to the report port
and changes nothing else (R277). -/
def takeEvent (e : Event) (s : State) : State :=
  match e with
  | .fault cause => s.withRun (.faulted cause)
  | .suspend cause resume => s.withRun (.awaitAck cause resume)
  | .report r => s.emitReport r

/-- THE RETURN: the host's `Ack` makes a suspended engine Running again, and says where it goes on. Nothing is
restored, because nothing was saved (60_exceptions.md R279). None where the engine is not suspended. -/
def endSuspension (s : State) : Option (Resume × State) :=
  match s.run with
  | .awaitAck _ resume => some (resume, s.withRun .running)
  | .idle => none
  | .running => none
  | .halted => none
  | .faulted _ => none

/-- `halt` (00_scope.md section 6). -/
def halt (s : State) : State := s.withRun .halted

/-! ### Load and restart -/

/-- The state that `Load` and `DoRestart` share: memory from an image with zeros after it, registers, flags, pc
and data_index 0, the initial section (60_exceptions.md R283, 70_reset_and_hazards.md R312). The ports are not
touched (10_state.md R36). Only cells below `MEM_SIZE` are written. -/
def freshState (image : List Cell) (run : RunState) (s : State) : State :=
  { s with
    mem := Memory.ofImage (image.take s.cfg.memSize) 0
    regs := RegFile.zero
    flags := Flags.zero
    pc := 0
    sect := s.cfg.initialSection
    dataIndex := 0
    run := run }

/-- `DoRestart()` (60_exceptions.md R283): from the retained image, not the current memory; M0 and the ports
are not changed. -/
def doRestart (s : State) : State := freshState s.m0 .running s

/-! ### The data window and unrecognized cells (40_cycle.md) -/

/-- `Suppressed(a)`: the interrupt cell and the populated part of the data window (40_cycle.md R138). -/
def State.suppressed (s : State) (a : Addr) : Bool :=
  decide (a.toNat = s.cfg.intLoc)
    || (decide (s.cfg.varLoc ≤ a.toNat) && decide (a.toNat < s.cfg.varLoc + s.dataIndex.toNat))

/-- `Unrecognized(c, a)` for the cell c at pc = a, which is passed over (40_cycle.md R137). -/
def unrecognized (c : Cell) (s : State) : State :=
  if s.suppressed s.pc then s.advance 1
  else takeEvent (.report (.invalidOpcode c s.pc)) (s.advance 1)

/-- `DataCell(c)` for the cell c at pc, which is passed over (40_cycle.md R136). -/
def dataCell (c : Cell) (s : State) : State :=
  if c = 0 then s.advance 1
  else
    match (s.advance 1).memWrite (s.cfg.varLoc + s.dataIndex.toNat) c with
    | .ok t => t.withDataIndex (t.dataIndex + 1)
    | .error cause => takeEvent (.fault cause) (s.advance 1)

end Sys2Proof.Machine
end

