-- ==== Sys2Proof/Machine/Operands.lean ====
section
/-! DEFINITION. What each operand kind yields when an instruction runs (30_encoding.md section 3). Addresses and
codes are raw cells and need no operation (R94). -/

namespace Sys2Proof.Machine

/-- `Resolve` (30_encoding.md R99): a register's content, or the literal. -/
def resolve (v : Value) (s : State) : Word :=
  match v with
  | .reg r => s.readReg r
  | .lit c => zextCell c

/-- `RegDesignator` (30_encoding.md R100): the register, or none. -/
def designated : Dest → Option Reg
  | .code r => some r
  | .window r => some r
  | .noReg _ => none

/-- `ModeWidth` (30_encoding.md R101): the width in bits, or none. -/
def modeWidth : Mode → Option Nat
  | .mode8 => some 8
  | .mode16 => some 16
  | .other _ => none

/-- A jump target: the absolute address in the raw cell (44_jumps.md R210). -/
def target (a : Cell) : Addr := cellAddr a

/-- A colour operand: the low four bits of ECX (43_int.md R183). -/
def colorOperand (s : State) : Color := (s.readReg .ecx).setWidth 4

end Sys2Proof.Machine
end

