-- ==== Sys2Proof/Machine/Flags.lean ====
section
/-! DEFINITION. The flags (10_state.md section 3). No instruction computes a flag (R29, R230 of 45_alu.md): the
jumps test RS itself, so the conditions stand here beside the read-only view of the flags. -/

namespace Sys2Proof.Machine

/-- One bit of the packed view. -/
def flagBit (b : Bool) (n : Nat) : Byte := if b then 1#8 <<< n else 0#8

/-- `FlagsByte` (10_state.md R31): Z(7) C(6) O(5) S(4) B(3) T(2) I(1) E(0). R is not in it. -/
def flagsByte (f : Flags) : Byte :=
  flagBit f.z 7 ||| flagBit f.c 6 ||| flagBit f.o 5 ||| flagBit f.s 4
    ||| flagBit f.b 3 ||| flagBit f.t 2 ||| flagBit f.i 1 ||| flagBit f.e 0

/-- The condition of je and, negated, of jne (44_jumps.md R212, R213). -/
def rsEquals (v : Value) (s : State) : Bool := decide (s.readReg .rs = resolve v s)

/-- The condition of jz and, negated, of jnz (44_jumps.md R214, R215). The Z flag is not read. -/
def rsZero (s : State) : Bool := decide (s.readReg .rs = 0)

/-- Strictly positive as a signed word, the test of `and` (45_alu.md R237, decision D16). -/
def positive (v : Word) : Bool := decide (0 < sint v)

/-- Flag T as the host sets it (00_scope.md R4). -/
def State.setT (s : State) (b : Bool) : State := s.withFlags { s.flags with t := b }

/-- Flag R as the host sets it (00_scope.md R4). -/
def State.setR (s : State) : State := s.withFlags { s.flags with r := true }

end Sys2Proof.Machine
end

