-- ==== Sys2Proof/Machine/Alu.lean ====
section
/-! DEFINITION. add, sub, mul, div, inc, dec, and (45_alu.md). No flag is read or written (R230). -/

namespace Sys2Proof.Machine

/-- A two-operand instruction that writes its 32-bit result to RS (45_alu.md R230). -/
def toRs (v : Word) (s : State) : State := (s.advance 3).writeReg .rs v

/-- The exact result reduced modulo 2^32 (45_alu.md R230). -/
def wrap (x : Int) : Word := BitVec.ofInt 32 x

/-- `add v1, v2` (45_alu.md R231). -/
def execAdd (v1 v2 : Value) (s : State) : Host.Outcome State Fault Refusal :=
  .next (toRs (wrap ((resolve v1 s).toNat + (resolve v2 s).toNat)) s)

/-- `sub v1, v2` (45_alu.md R232). -/
def execSub (v1 v2 : Value) (s : State) : Host.Outcome State Fault Refusal :=
  .next (toRs (wrap ((resolve v1 s).toNat - (resolve v2 s).toNat)) s)

/-- `mul v1, v2` (45_alu.md R233). -/
def execMul (v1 v2 : Value) (s : State) : Host.Outcome State Fault Refusal :=
  .next (toRs (wrap ((resolve v1 s).toNat * (resolve v2 s).toNat)) s)

/-- `div v1, v2` (45_alu.md R234): signed, rounded toward zero; a zero divisor faults and leaves RS alone
(decisions D14, D15). `sint` reads a literal too, as the pseudocode does, against R97 at CELL_BITS = 32 (DESIGN CHOICE,
log 25). -/
def execDiv (v1 v2 : Value) (s : State) : Host.Outcome State Fault Refusal :=
  if sint (resolve v2 s) = 0 then .next (takeEvent (.fault .divideByZero) (s.advance 3))
  else .next (toRs (wrap (Int.tdiv (sint (resolve v1 s)) (sint (resolve v2 s)))) s)

/-- `and v1, v2` (45_alu.md R237): not bitwise; 1 if both operands are strictly positive. `sint`
reads a literal too, as the pseudocode does, against R97 at CELL_BITS = 32 (DESIGN CHOICE, log 25). -/
def execAnd (v1 v2 : Value) (s : State) : Host.Outcome State Fault Refusal :=
  .next (toRs (if positive (resolve v1 s) && positive (resolve v2 s) then 1 else 0) s)

/-- The registers inc and dec affect (45_alu.md R235, R236). -/
def countable : Reg → Bool
  | .eax | .ebx | .ecx | .edx | .rs => true
  | .ax | .bx | .cx | .dx | .bax | .bbx | .bcx | .bdx => false

/-- Adds a signed amount to a countable register; any other designator has no effect (45_alu.md R235, R236,
decision D12). -/
def countBy (d : Int) (reg : Dest) (s : State) : State :=
  match designated reg with
  | some r =>
    if countable r then (s.advance 2).writeReg r (wrap ((s.readReg r).toNat + d)) else s.advance 2
  | none => s.advance 2

/-- `inc reg` (45_alu.md R235). -/
def execInc (reg : Dest) (s : State) : Host.Outcome State Fault Refusal := .next (countBy 1 reg s)

/-- `dec reg` (45_alu.md R236). -/
def execDec (reg : Dest) (s : State) : Host.Outcome State Fault Refusal := .next (countBy (-1) reg s)

end Sys2Proof.Machine
end

