-- ==== Sys2Proof/Machine/Basic.lean ====
section
/-! DEFINITION. nop, hlt and the 0xCC breakpoint (41_basic.md). In every meaning pc stands at the opcode cell on
entry, and the meaning passes over the cells of its own instruction (log 9). -/

namespace Sys2Proof.Machine

/-- `nop` (41_basic.md R160). -/
def execNop (s : State) : Host.Outcome State Fault Refusal := .next (s.advance 1)

/-- `hlt` (41_basic.md R161). -/
def execHlt (s : State) : Host.Outcome State Fault Refusal := .next (halt (s.advance 1))

/-- `brk`, opcode 0xCC (41_basic.md R162). -/
def execBrk (s : State) : Host.Outcome State Fault Refusal :=
  .next (takeEvent (.suspend .breakpoint .nextIteration) (s.advance 1))

end Sys2Proof.Machine
end

