-- ==== Sys2Proof/Machine/Interrupt.lean ====
section
/-! DEFINITION. int, IntDispatch and the syscall dispatcher (43_int.md, 60_exceptions.md R276). -/

namespace Sys2Proof.Machine

/-- `RestartSyscall()` (43_int.md R182; the clear colour is decision D39). -/
def restartSyscall (s : State) : State :=
  ((doRestart s).emitDisplay (.clear 0)).emitDisplay .resetScroll

/-- `WriteText()` (43_int.md R184): ECX cells from `VAR_LOC` on, or a fault with nothing emitted. -/
def writeText (s : State) : State :=
  let len := (s.readReg .ecx).toNat
  if s.cellsExist s.cfg.varLoc len then s.emitDisplay (.drawText (Memory.readRange s.mem s.cfg.varLoc len))
  else takeEvent (.fault .outOfMemory) s

/-- `WriteClear()` (43_int.md R185). -/
def writeClear (s : State) : State := s.emitDisplay (.clear (colorOperand s))

/-- `WritePixel()` (43_int.md R186): x in AX, y in BX. -/
def writePixel (s : State) : State :=
  s.emitDisplay (.plotPixel s.regs.ax s.regs.bx (colorOperand s))

/-- `WriteColor()` (43_int.md R187). -/
def writeColor (s : State) : State := s.emitDisplay (.setColor (colorOperand s))

/-- `Syscall()` (43_int.md R181): the number in EAX, the subcode in EBX. Any other pair does nothing (R188). -/
def syscall (s : State) : State :=
  if s.readReg .eax = s.cfg.sysRestart then restartSyscall s
  else if s.readReg .eax = s.cfg.sysWrite then
    if s.readReg .ebx = 1 then writeText s
    else if s.readReg .ebx = 2 then writeClear s
    else if s.readReg .ebx = 3 then writePixel s
    else if s.readReg .ebx = 4 then writeColor s
    else s
  else s

/-- `IntDispatch(c, a)` (60_exceptions.md R276). -/
def intDispatch (c : Cell) (a : Addr) (s : State) : State :=
  if c = s.cfg.syscallCode then syscall s
  else if c = s.cfg.intSingleStep then takeEvent (.suspend .singleStep .nextIteration) s
  else if c = s.cfg.intBreakpoint then takeEvent (.suspend .breakpoint .nextIteration) s
  else if c = s.cfg.intDoubleFault then takeEvent (.fault .doubleFault) s
  else if c = s.cfg.intOutOfMemory then takeEvent (.fault .outOfMemory) s
  else takeEvent (.report (.interrupt c a)) s

/-- `int code` (43_int.md R180): the code goes to `INT_LOC`, then it is dispatched; where that cell does not
exist the store faults and nothing is dispatched. -/
def execInt (code : Cell) (s : State) : Host.Outcome State Fault Refusal :=
  match (s.advance 2).memWrite s.cfg.intLoc code with
  | .ok t => .next (intDispatch code s.pc t)
  | .error cause => .next (takeEvent (.fault cause) (s.advance 2))

end Sys2Proof.Machine
end

