-- ==== Sys2Proof/Machine/Jumps.lean ====
section
/-! DEFINITION. jmp, je, jne, jz, jnz (44_jumps.md). -/

namespace Sys2Proof.Machine

/-- A jump of n cells: to the target if it is taken, else past its own cells (44_jumps.md R210). -/
def jumpIf (taken : Bool) (addr : Cell) (n : Nat) (s : State) : State :=
  if taken then s.withPc (target addr) else s.advance n

/-- `jmp addr` (44_jumps.md R211). -/
def execJmp (addr : Cell) (s : State) : Host.Outcome State Fault Refusal := .next (jumpIf true addr 2 s)

/-- `je cmp, addr` (44_jumps.md R212). -/
def execJe (cmp : Value) (addr : Cell) (s : State) : Host.Outcome State Fault Refusal :=
  .next (jumpIf (rsEquals cmp s) addr 3 s)

/-- `jne cmp, addr` (44_jumps.md R213). -/
def execJne (cmp : Value) (addr : Cell) (s : State) : Host.Outcome State Fault Refusal :=
  .next (jumpIf (!rsEquals cmp s) addr 3 s)

/-- `jz addr` (44_jumps.md R214). -/
def execJz (addr : Cell) (s : State) : Host.Outcome State Fault Refusal := .next (jumpIf (rsZero s) addr 2 s)

/-- `jnz addr` (44_jumps.md R215). -/
def execJnz (addr : Cell) (s : State) : Host.Outcome State Fault Refusal := .next (jumpIf (!rsZero s) addr 2 s)

end Sys2Proof.Machine
end

