-- ==== Sys2Proof/Machine/Mov.lean ====
section
/-! DEFINITION. mov (42_mov.md). -/

namespace Sys2Proof.Machine

/-- `mov mode, dest, src` (42_mov.md R170, R171): the source limited to the mode's width, then to the register's.
An unknown mode or a designator of no register writes nothing (decisions D12, D13). -/
def execMov (mode : Mode) (dest : Dest) (src : Value) (s : State) : Host.Outcome State Fault Refusal :=
  match modeWidth mode, designated dest with
  | some w, some r => .next ((s.advance 4).writeReg r (truncWord w (resolve src s)))
  | some _, none => .next (s.advance 4)
  | none, some _ => .next (s.advance 4)
  | none, none => .next (s.advance 4)

end Sys2Proof.Machine
end

