-- ==== Sys2Proof/Machine/Sections.lean ====
section
/-! DEFINITION. The three sentinel rows of the opcode table (30_encoding.md R93, R103; 40_cycle.md R135). -/

namespace Sys2Proof.Machine

/-- `SEC_DATA` at an instruction position (40_cycle.md R135). -/
def execSecData (s : State) : Host.Outcome State Fault Refusal := .next ((s.advance 1).withSect .data)

/-- `SEC_TEXT` at an instruction position (40_cycle.md R135). -/
def execSecText (s : State) : Host.Outcome State Fault Refusal := .next ((s.advance 1).withSect .text)

/-- `SEC_ROM` at an instruction position: to the engine it is an unrecognized cell in text and a data cell in
data (30_encoding.md R103, decision D4; log 10). -/
def execSecRom (s : State) : Host.Outcome State Fault Refusal :=
  match s.sect with
  | .text => .next (unrecognized s.cfg.secRom s)
  | .data => .next (dataCell s.cfg.secRom s)

end Sys2Proof.Machine
end

