-- ==== Sys2Proof/Machine/Uld.lean ====
section
/-! DEFINITION. uld (46_uld.md). -/

namespace Sys2Proof.Machine

/-- `uld` (46_uld.md R260): clears the populated data window, then the index. Where the window would reach past
the end of memory, which no run brings about, the first write past the end faults after those before it
(20_memory.md R63; log 14). -/
def execUld (s : State) : Host.Outcome State Fault Refusal :=
  let n := s.dataIndex.toNat
  let room := s.cfg.memSize - s.cfg.varLoc
  if s.cellsExist s.cfg.varLoc n then
    .next (((s.advance 1).withMem (Memory.clearRange s.mem s.cfg.varLoc n)).withDataIndex 0)
  else
    .next (takeEvent (.fault .outOfMemory)
      ((s.advance 1).withMem (Memory.clearRange s.mem s.cfg.varLoc (min n room))))

end Sys2Proof.Machine
end

