-- ==== Sys2Proof/Machine/Dispatch.lean ====
section
/-! DEFINITION. exec: one arm per constructor of Instr, each one direct call of its meaning. -/

namespace Sys2Proof.Machine

def exec (i : Instr) (s : State) : Host.Outcome State Fault Refusal :=
  match i with
  | .nop => Sys2Proof.Machine.execNop s
  | .hlt => Sys2Proof.Machine.execHlt s
  | .mov mode dest src => Sys2Proof.Machine.execMov mode dest src s
  | .int code => Sys2Proof.Machine.execInt code s
  | .jmp addr => Sys2Proof.Machine.execJmp addr s
  | .add v1 v2 => Sys2Proof.Machine.execAdd v1 v2 s
  | .sub v1 v2 => Sys2Proof.Machine.execSub v1 v2 s
  | .mul v1 v2 => Sys2Proof.Machine.execMul v1 v2 s
  | .div v1 v2 => Sys2Proof.Machine.execDiv v1 v2 s
  | .inc reg => Sys2Proof.Machine.execInc reg s
  | .dec reg => Sys2Proof.Machine.execDec reg s
  | .je cmp addr => Sys2Proof.Machine.execJe cmp addr s
  | .jne cmp addr => Sys2Proof.Machine.execJne cmp addr s
  | .jz addr => Sys2Proof.Machine.execJz addr s
  | .jnz addr => Sys2Proof.Machine.execJnz addr s
  | .and v1 v2 => Sys2Proof.Machine.execAnd v1 v2 s
  | .uld => Sys2Proof.Machine.execUld s
  | .brk => Sys2Proof.Machine.execBrk s
  | .secData => Sys2Proof.Machine.execSecData s
  | .secText => Sys2Proof.Machine.execSecText s
  | .secRom => Sys2Proof.Machine.execSecRom s

end Sys2Proof.Machine
end

