-- ==== Sys2Proof/Machine/Cycle.lean ====
section
/-! DEFINITION. The iteration of the engine (40_cycle.md), the host operations (00_scope.md R4), and whose turn
it is (log 4). -/

namespace Sys2Proof.Machine

/-! ### The engine -/

/-- At most n cells from address a on, as far as memory goes: what n uses of `Fetch()` would read
(40_cycle.md R131, 20_memory.md R77). -/
def fetchFrom (s : State) : Nat → Nat → List Cell
  | _, 0 => []
  | a, n + 1 => if a < s.cfg.memSize then Memory.read s.mem a :: fetchFrom s (a + 1) n else []

/-- The cells of the longest instruction that could start at pc. -/
def fetchCells (s : State) : List Cell := fetchFrom s s.pc.toNat maxLength

/-- The cell switches the section, in every section (40_cycle.md R135). SEC_ROM does not (decision D4). -/
def isSentinel (cfg : Config) (c : Cell) : Bool := decide (c = cfg.secData) || decide (c = cfg.secText)

/-- In the data section a cell that is no sentinel is a data cell, never an instruction (40_cycle.md R136). -/
def isData (s : State) (c : Cell) : Bool := decide (s.sect = .data) && !isSentinel s.cfg c

/-- The instruction position: a data cell is copied, an instruction is executed, an unrecognized cell is passed
over, and an instruction whose operand cells run past the end of memory faults with pc past the cells that were
fetched (40_cycle.md R130, R135 to R139). -/
def instructionPosition (s : State) : Host.Outcome State Fault Refusal :=
  match fetchCells s with
  | [] => .next (takeEvent (.fault .outOfMemory) s)
  | c :: operands =>
    if isData s c then .next (dataCell c s)
    else
      match decode s.cfg (c :: operands) with
      | .ok i => exec i s
      | .error (.unrecognized u) => .next (unrecognized u s)
      | .error (.truncated _) => .next (takeEvent (.fault .outOfMemory) (s.advance (operands.length + 1)))
      | .error .noCell => .next (takeEvent (.fault .outOfMemory) s)

/-- `Continue()` (40_cycle.md R130): a requested restart (R134), or the instruction position. -/
def continueIteration (s : State) : Host.Outcome State Fault Refusal :=
  if s.flags.r then .next (doRestart s) else instructionPosition s

/-- `Iteration()` (40_cycle.md R130): PC exhaustion (R132), then the single step (R133), then `Continue()`. -/
def iteration (s : State) : Host.Outcome State Fault Refusal :=
  if s.cfg.memSize ≤ s.pc.toNat then .next (halt s)
  else if s.flags.t then .next (takeEvent (.suspend .singleStep .afterTrapCheck) s)
  else continueIteration s

/-- The engine's turn: one iteration while it is Running. In every other run state it takes no step and the
state stays as it is (10_state.md R33, 40_cycle.md R141, 60_exceptions.md R289; log 5). -/
def engineTurn (s : State) : Host.Outcome State Fault Refusal :=
  match s.run with
  | .running => iteration s
  | .idle => .next s
  | .awaitAck _ _ => .next s
  | .halted => .next s
  | .faulted _ => .next s

/-! ### The host -/

/-- The column "Allowed when" of 00_scope.md R4. -/
def hostAllowed (op : HostOp) (s : State) : Bool :=
  match op with
  | .load image =>
    (match s.run with
      | .idle => true
      | .halted => true
      | .faulted _ => true
      | .running => false
      | .awaitAck _ _ => false) && s.cfg.imageOk image
  | .start => decide (s.run = .idle)
  | .ack =>
    match s.run with
    | .awaitAck _ _ => true
    | .idle => false
    | .running => false
    | .halted => false
    | .faulted _ => false
  | .setTrap _ => true
  | .requestRestart => true
  | .readState => true
  | .readPorts => true

/-- `Load(image)` where it is allowed (70_reset_and_hazards.md R312). -/
def hostLoad (image : List Cell) (s : State) : State := (freshState image .idle s).withM0 image

/-- `Start` where it is allowed (70_reset_and_hazards.md R313). -/
def hostStart (s : State) : State := s.withRun .running

/-- `Ack` (60_exceptions.md R279): after a single step the suspended iteration goes on with `Continue()`; after a
breakpoint, or an int of either code, the next iteration is the engine's next turn. -/
def hostAck (s : State) : Host.Outcome State Fault Refusal :=
  match endSuspension s with
  | some (.afterTrapCheck, t) => continueIteration t
  | some (.nextIteration, t) => .next t
  | none => .next s

/-- What `ReadState` returns (00_scope.md R4, 10_state.md R31). -/
structure HostView where
  mem : Memory
  regs : RegFile
  flags : Flags
  packed : Byte
  pc : Addr
  run : RunState
deriving DecidableEq, Repr

/-- `ReadState` (00_scope.md R4): it has no effect. -/
def State.hostView (s : State) : HostView where
  mem := s.mem
  regs := s.regs
  flags := s.flags
  packed := flagsByte s.flags
  pc := s.pc
  run := s.run

/-- What `ReadPorts` returns (00_scope.md R4). -/
def State.pendingEvents (s : State) : List DisplayEvent × List ReportEvent := (s.display, s.report)

/-- `ReadPorts` removes the pending events (00_scope.md R4, 10_state.md R36). -/
def hostReadPorts (s : State) : State := (s.withDisplay []).withReport []

/-- The colour name the display maps an event's index to (00_scope.md R5, 43_int.md R183). No engine rule uses it. -/
def DisplayEvent.colorName : DisplayEvent → Option ColorName
  | .drawText _ => none
  | .clear k => some (Config.palette k.toFin)
  | .plotPixel _ _ k => some (Config.palette k.toFin)
  | .setColor k => some (Config.palette k.toFin)
  | .resetScroll => none

/-- The host's turn: an operation that is not allowed is turned away and changes nothing (00_scope.md R4,
70_reset_and_hazards.md R312; log 6). -/
def hostTurn (op : HostOp) (s : State) : Host.Outcome State Fault Refusal :=
  if hostAllowed op s then
    match op with
    | .load image => .next (hostLoad image s)
    | .start => .next (hostStart s)
    | .ack => hostAck s
    | .setTrap b => .next (s.setT b)
    | .requestRestart => .next s.setR
    | .readState => .next s
    | .readPorts => .next (hostReadPorts s)
  else .next s

/-! ### Turns -/

/-- One turn: the next of the schedule, or the engine's where none is scheduled (00_scope.md R1, R4,
40_cycle.md R140; log 4). -/
def takeTurn (s : State) : Host.Outcome State Fault Refusal :=
  match s.schedule with
  | [] => engineTurn s
  | .engine :: rest => engineTurn (s.withSchedule rest)
  | .host op :: rest => hostTurn op (s.withSchedule rest)

/-- Stores cells at rising addresses from a on. -/
def storeCells (m : Memory) : Nat → List Cell → Memory
  | _, [] => m
  | a, c :: cs => storeCells (Memory.write m a c) (a + 1) cs

/-- Where the host's word is placed: at pc, or at 0 where four cells do not fit from pc on. -/
def fetchPlace (s : State) : Addr :=
  if s.pc.toNat + maxLength ≤ s.cfg.memSize then s.pc else 0

/-- The state in which the engine's next turn fetches the given cells (log 7): Running, in text, no single
step, no restart and no host turn in the way. -/
def readyToRun (s : State) (cells : List Cell) : State :=
  { s with
    mem := storeCells s.mem (fetchPlace s).toNat (cells.map s.trimCell)
    pc := fetchPlace s
    sect := .text
    run := .running
    flags := { s.flags with t := false, r := false }
    schedule := [] }

end Sys2Proof.Machine
end

