-- ==== Sys2Proof/Machine/Step.lean ====
section
/-! DEFINITION. The step of the machine, and the state in which it runs a given instruction. -/

namespace Sys2Proof.Machine

/-- One step: one iteration of the engine or one operation of the host (00_scope.md R1, R4; 40_cycle.md R130;
70_reset_and_hazards.md R327). -/
def step (s : State) : Host.Outcome State Fault Refusal := takeTurn s

/-- `s` with an instruction of the opcode table stored where `step` fetches its next instruction (log 7). -/
def State.withFetchWord (s : State) (nbits w : Nat) : State := readyToRun s (tableCells nbits w)

end Sys2Proof.Machine
end

