-- ==== Sys2Proof/Safety.lean ====
section
/-! DEFINITION. What statements about the machine are said in: what a step leaves as it was, when the engine is
ready to fetch, the invariant of every run, and the end of a run. -/

namespace Sys2Proof.Machine

/-! ### Frames -/

/-- Every register but those listed reads as before: the other coded registers and the four index registers. -/
def RegsSameBut (changed : List Reg) (s t : State) : Prop :=
  (∀ r, r ∉ changed → t.readReg r = s.readReg r) ∧ t.regs.edi = s.regs.edi ∧ t.regs.esi = s.regs.esi
    ∧ t.regs.esp = s.regs.esp ∧ t.regs.ebp = s.regs.ebp

/-- Every cell of memory reads as before, but for the addresses in a set. -/
def MemSameBut (changed : Nat → Prop) (s t : State) : Prop :=
  ∀ a, ¬ changed a → Memory.read t.mem a = Memory.read s.mem a

/-- Every cell of memory reads as before. -/
def MemSame (s t : State) : Prop := ∀ a, Memory.read t.mem a = Memory.read s.mem a

/-- Flags, section, retained image, parameters and schedule are as before. -/
def ControlSame (s t : State) : Prop :=
  t.flags = s.flags ∧ t.sect = s.sect ∧ t.m0 = s.m0 ∧ t.cfg = s.cfg ∧ t.schedule = s.schedule

/-- Both ports hold what they held. -/
def PortsSame (s t : State) : Prop := t.display = s.display ∧ t.report = s.report

/-- Nothing changed but pc and the registers listed. -/
def OnlyPcAndRegs (changed : List Reg) (s t : State) : Prop :=
  RegsSameBut changed s t ∧ MemSame s t ∧ ControlSame s t ∧ PortsSame s t ∧ t.dataIndex = s.dataIndex
    ∧ t.run = s.run

/-- Nothing changed but pc and the run state. -/
def OnlyPcAndRun (s t : State) : Prop :=
  RegsSameBut [] s t ∧ MemSame s t ∧ ControlSame s t ∧ PortsSame s t ∧ t.dataIndex = s.dataIndex

/-- Nothing changed but pc and the section. -/
def OnlyPcAndSection (s t : State) : Prop :=
  RegsSameBut [] s t ∧ MemSame s t ∧ PortsSame s t ∧ t.flags = s.flags ∧ t.m0 = s.m0 ∧ t.cfg = s.cfg
    ∧ t.schedule = s.schedule ∧ t.dataIndex = s.dataIndex ∧ t.run = s.run

/-- What every int does before its dispatch shows (43_int.md R180): pc past its two cells, the code in the
interrupt cell (whole, since a code is a cell; 00_scope.md section 6), and no register, flag or other cell changed. -/
def IntStored (code : Cell) (s t : State) : Prop :=
  t.pc = s.pc + 2 ∧ (Memory.read t.mem s.cfg.intLoc).toNat = code.toNat % 2 ^ s.cfg.cellBits
    ∧ MemSameBut (· = s.cfg.intLoc) s t
    ∧ RegsSameBut [] s t ∧ ControlSame s t ∧ t.dataIndex = s.dataIndex

/-- The values of 10_state.md R37 with an image (60_exceptions.md R283, 70_reset_and_hazards.md R312): memory is
the image with zeros after it, every register and flag is 0, pc and data_index are 0 and the section is the
initial one. The parameters do not change. -/
def Fresh (image : List Cell) (s t : State) : Prop :=
  (∀ a, Memory.read t.mem a = if a < s.cfg.memSize then (image[a]?).getD 0 else 0)
    ∧ (∀ r, t.readReg r = 0) ∧ t.regs.edi = 0 ∧ t.regs.esi = 0 ∧ t.regs.esp = 0 ∧ t.regs.ebp = 0
    ∧ t.flags = Flags.zero ∧ t.pc = 0 ∧ t.dataIndex = 0 ∧ t.sect = s.cfg.initialSection ∧ t.cfg = s.cfg

/-- The cell c at pc is passed over, and reported unless it lies in the interrupt cell or in the populated data
window (40_cycle.md R137, R138). -/
def ReportedOrSkipped (c : Cell) (s t : State) : Prop :=
  t.pc = s.pc + 1 ∧ RegsSameBut [] s t ∧ MemSame s t ∧ ControlSame s t ∧ t.dataIndex = s.dataIndex
    ∧ t.run = s.run ∧ t.display = s.display
    ∧ t.report =
      if s.pc.toNat = s.cfg.intLoc
          ∨ (s.cfg.varLoc ≤ s.pc.toNat ∧ s.pc.toNat < s.cfg.varLoc + s.dataIndex.toNat) then s.report
      else s.report ++ [.invalidOpcode c s.pc]

/-- The cell c at pc is passed over; unless it is 0 it is stored at the end of the populated data window, or faults
there (40_cycle.md R136). -/
def CopiedToWindow (c : Cell) (s t : State) : Prop :=
  t.pc = s.pc + 1 ∧ RegsSameBut [] s t ∧ ControlSame s t ∧ PortsSame s t
    ∧ (c = 0 → MemSame s t ∧ t.dataIndex = s.dataIndex ∧ t.run = s.run)
    ∧ (c ≠ 0 → s.cfg.varLoc + s.dataIndex.toNat < s.cfg.memSize →
        (Memory.read t.mem (s.cfg.varLoc + s.dataIndex.toNat)).toNat = c.toNat % 2 ^ s.cfg.cellBits
          ∧ MemSameBut (· = s.cfg.varLoc + s.dataIndex.toNat) s t
          ∧ t.dataIndex = s.dataIndex + 1 ∧ t.run = s.run)
    ∧ (c ≠ 0 → s.cfg.memSize ≤ s.cfg.varLoc + s.dataIndex.toNat →
        MemSame s t ∧ t.dataIndex = s.dataIndex ∧ t.run = .faulted .outOfMemory)

/-! ### When the engine fetches -/

/-- It is the engine's turn with nothing scheduled, it is Running, pc lies in memory, and neither a single step
nor a restart comes first (40_cycle.md R130). -/
def EngineReady (s : State) : Prop :=
  s.schedule = [] ∧ s.run = .running ∧ s.pc.toNat < s.cfg.memSize ∧ s.flags.t = false ∧ s.flags.r = false

/-- The instruction runs in the active section: any instruction in text, and the two sentinels in data as well
(40_cycle.md R130, R135). -/
def RunsInSection (i : Instr) (s : State) : Prop := s.sect = .text ∨ i = .secData ∨ i = .secText

/-- An int that restarts: its code selects the dispatcher and EAX holds the Restart number (43_int.md R181). -/
def IsRestart (i : Instr) (s : State) : Prop :=
  i = .int s.cfg.syscallCode ∧ s.readReg .eax = s.cfg.sysRestart

/-- `Load` of the image is allowed (00_scope.md R4, 70_reset_and_hazards.md R312): in Idle, Halted or Faulted, of an image
that fits memory, of elements that fit a cell. -/
def LoadAllowed (image : List Cell) (s : State) : Prop :=
  (s.run = .idle ∨ s.run = .halted ∨ ∃ cause, s.run = .faulted cause) ∧ image.length ≤ s.cfg.memSize
    ∧ ∀ c ∈ image, c.toNat < 2 ^ s.cfg.cellBits

/-- What makes int run out of memory (43_int.md R180, R184; 60_exceptions.md R276): no interrupt cell, the out-of-memory
code itself, or a Write of a text that reaches past the end of memory. -/
def IntRunsOutOfMemory (c : Cell) (s : State) : Prop :=
  s.cfg.memSize ≤ s.cfg.intLoc ∨ c = s.cfg.intOutOfMemory
    ∨ (c = s.cfg.syscallCode ∧ s.readReg .eax = s.cfg.sysWrite ∧ s.readReg .ebx = 1 ∧ (s.readReg .ecx).toNat ≠ 0
        ∧ s.cfg.memSize < s.cfg.varLoc + (s.readReg .ecx).toNat)

/-- The cell at pc. -/
def cellAtPc (s : State) : Cell := Memory.read s.mem s.pc.toNat

/-- Memory holds these cells from address a on, all of them below `MEM_SIZE`. -/
def HoldsFrom (s : State) (a : Nat) (cells : List Cell) : Prop :=
  ∀ j, ∀ h : j < cells.length, a + j < s.cfg.memSize ∧ Memory.read s.mem (a + j) = cells[j]

/-- The exception of every instruction with operands (40_cycle.md R139, 60_exceptions.md R271; decisions D25, D33,
D40): where an operand cell would lie at or
past `MEM_SIZE`, the step enters Faulted(OutOfMemory) with pc at `MEM_SIZE`, and nothing else changes. -/
def MissingOperandsFault (op : Opcode) : Prop :=
  ∀ s : State, s.cfg.wellFormed = true → EngineReady s → s.sect = .text → cellAtPc s = op.value s.cfg →
    s.cfg.memSize < s.pc.toNat + 1 + op.operands →
    ∃ t, step s = .next t ∧ t.run = .faulted .outOfMemory ∧ t.pc.toNat = s.cfg.memSize ∧ OnlyPcAndRun s t

/-! ### Invariant and end of a run -/

/-- What every run keeps: the machine is an instance of the spec, memory is in canonical form with no cell outside
it or wider than `CELL_BITS`, the retained image is one that `Load` accepts, pc is within the cell address space (so it never wraps, 10_state.md R26), the
populated data window lies in memory (R34), a suspension before a fetch is a single step with pc in memory
(40_cycle.md R133), and no flag but T and R is ever set (10_state.md R29, R30). -/
structure Inv (s : State) : Prop where
  config : s.cfg.wellFormed = true
  memory : Memory.wf s.cfg.memSize s.cfg.cellBits s.mem = true
  image : s.cfg.imageOk s.m0 = true
  pcBound : s.pc.toNat ≤ 2 ^ s.cfg.cellBits
  window : s.dataIndex.toNat = 0 ∨ s.cfg.varLoc + s.dataIndex.toNat ≤ s.cfg.memSize
  suspended : ∀ cause, s.run = .awaitAck cause .afterTrapCheck → cause = .singleStep ∧ s.pc.toNat < s.cfg.memSize
  flags : s.flags.z = false ∧ s.flags.c = false ∧ s.flags.o = false ∧ s.flags.s = false ∧ s.flags.b = false
    ∧ s.flags.i = false ∧ s.flags.e = false

/-- The run has ended (40_cycle.md R141). -/
def ended (s : State) : Prop := s.run = .halted ∨ ∃ cause, s.run = .faulted cause

end Sys2Proof.Machine
end

