-- ==== Sys2Proof/Certificates/Slice0/Obligations.lean ====
section
/-! DEFINITION. The statements about the machine, from the numbered rules of spec/. Where a docstring names a
decision D<n> of 92_eei_decisions.md, that clause of the rule is the spec's own choice. -/

open Sys2Proof Sys2Proof.Machine

/-! ### Reset -/

/-- 70_reset_and_hazards.md R310 (zero memory and Idle: decision D30). -/
def Obligations.ResetIsTheConstructedMachine : Prop :=
  (∀ r, State.reset.readReg r = 0) ∧ State.reset.regs.edi = 0 ∧ State.reset.regs.esi = 0
    ∧ State.reset.regs.esp = 0 ∧ State.reset.regs.ebp = 0 ∧ State.reset.flags = Flags.zero
    ∧ (∀ a, Memory.read State.reset.mem a = 0) ∧ State.reset.m0 = [] ∧ State.reset.pc = 0
    ∧ State.reset.sect = State.reset.cfg.initialSection ∧ State.reset.dataIndex = 0 ∧ State.reset.run = .idle

/-! ### Encoding -/

/-- Decoding the cells of a well-formed instruction, whatever follows them, gives the instruction back, for every
instance of the parameters, and each of them fits a cell of that instance (30_encoding.md R90, R92, R105). -/
def Obligations.EncodeThenDecode : Prop :=
  ∀ (cfg : Config) (i : Instr) (rest : List Cell), cfg.wellFormed = true → i.wellFormed cfg = true →
    (∀ c ∈ encode cfg i, cfg.isCell c = true) ∧ decode cfg (encode cfg i ++ rest) = .ok i

/-- What the decoder reads from cells is well-formed, and its cells are exactly the cells it was read from: no bit of an
encoding is dropped, and two instructions never share their cells (30_encoding.md R94, R105). -/
def Obligations.DecodeThenEncode : Prop :=
  ∀ (cfg : Config) (cells : List Cell) (i : Instr), (∀ c ∈ cells, cfg.isCell c = true) →
    decode cfg cells = .ok i → i.wellFormed cfg = true ∧ i.length ≤ cells.length ∧ cells.take i.length = encode cfg i

/-- Words written out from the default values of 30_encoding.md R92 and R93 and 10_state.md R21. A sanity statement. -/
def Obligations.WrittenOutCellsDecode : Prop :=
  decode Config.default [0x02#32, 0x07#32, 0x01#32, 0x05#32] = .ok (.mov .mode8 (.code .ebx) (.lit 5#32))
    ∧ decode Config.default [0x02#32, 0x08#32, 0x10FFA#32, 0x11004#32] = .ok (.mov .mode16 (.window .ecx) (.reg .rs))
    ∧ decode Config.default [0x03#32, 0x80#32] = .ok (.int 0x80#32)
    ∧ decode Config.default [0x04#32, 0x10FF8#32] = .ok (.jmp 0x10FF8#32)
    ∧ decode Config.default [0x05#32, 0x05#32, 0x10FFC#32] = .ok (.add (.lit 5#32) (.reg .ax))
    ∧ decode Config.default [0x0A#32, 0x0D#32] = .ok (.dec (.noReg 0x0D#32))
    ∧ decode Config.default [0x0B#32, 0x10FF7#32, 0x14#32] = .ok (.je (.lit 0x10FF7#32) 0x14#32)
    ∧ decode Config.default [0xCC#32] = .ok .brk ∧ decode Config.default [0xFF#32] = .ok .secText

/-- The cell values that are no opcode and no sentinel under the default parameters (30_encoding.md R104, derived
there). 0xFE, which R104 lists with them, is read as the table's reserved row, whose meaning is that of an
unrecognized cell (`RomIsNoSentinel`; log 10). -/
def Obligations.UnassignedCellsAreUnrecognized : Prop :=
  ∀ (c : Cell) (rest : List Cell), decode Config.default (c :: rest) = .error (.unrecognized c) ↔
    (0x11 ≤ c.toNat ∧ c.toNat ≤ 0xCB) ∨ (0xCD ≤ c.toNat ∧ c.toNat ≤ 0xFC) ∨ 0x100 ≤ c.toNat

/-- The opcode cell alone fixes the length `1 + k`: with enough operand cells, whatever they hold, the cells decode to an
instruction of that row; with too few they never do (30_encoding.md R91, R105). -/
def Obligations.OpcodeCellFixesLength : Prop :=
  ∀ (cfg : Config) (c : Cell) (op : Opcode) (rest : List Cell), decodeOpcode cfg c = some op →
    (rest.length < op.operands → decode cfg (c :: rest) = .error (.truncated op))
      ∧ (op.operands ≤ rest.length →
          ∃ i, decode cfg (c :: rest) = .ok i ∧ i.opcode = op ∧ i.length = 1 + op.operands)

/-! ### Operands -/

/-- `Resolve(c)` (30_encoding.md R99, decision D10): a cell in the window reads its register, zero-extended; every other
cell is a literal. -/
def Obligations.ValueCellResolves : Prop :=
  ∀ (s : State) (c : Cell),
    (∀ r : Reg, c.toNat = s.cfg.regBase + r.code → resolve (Value.ofCell s.cfg c) s = s.readReg r)
      ∧ ((∀ r : Reg, c.toNat ≠ s.cfg.regBase + r.code) → (resolve (Value.ofCell s.cfg c) s).toNat = c.toNat)

/-- `RegDesignator(c)` (30_encoding.md R100, decision D11): both spellings select the register, every other cell none. -/
def Obligations.DesignatorCellSelects : Prop :=
  ∀ (cfg : Config) (c : Cell), cfg.wellFormed = true →
    (∀ r : Reg, c.toNat = r.code ∨ c.toNat = cfg.regBase + r.code → designated (Dest.ofCell cfg c) = some r)
      ∧ ((∀ r : Reg, c.toNat ≠ r.code ∧ c.toNat ≠ cfg.regBase + r.code) → designated (Dest.ofCell cfg c) = none)

/-! ### nop, hlt, the breakpoint -/

/-- 41_basic.md R160: nothing but pc changes. The last clause is its corner case under the default opcode (decision D2):
a zero cell in text runs as nop. -/
def Obligations.NopOnlyMovesPc : Prop :=
  (∀ s : State, ∃ t, exec .nop s = .next t ∧ t.pc = s.pc + 1 ∧ OnlyPcAndRegs [] s t)
    ∧ ∀ s : State, s.cfg = Config.default → EngineReady s → s.sect = .text → cellAtPc s = 0 → step s = exec .nop s

/-- 41_basic.md R161: hlt enters Halted with pc past its one cell, and the engine takes no further step. That a further
turn of it is a next state equal to the one before is the model's choice (log 5). -/
def Obligations.HltHalts : Prop :=
  (∀ cfg : Config, encode cfg .hlt = [cfg.opHlt])
    ∧ ∀ s : State, ∃ t, exec .hlt s = .next t ∧ t.run = .halted ∧ t.pc = s.pc + 1 ∧ OnlyPcAndRun s t
        ∧ (t.schedule = [] → step t = .next t)

/-- 41_basic.md R162 and 60_exceptions.md R278 (decisions D20, D21): brk suspends with pc past its cell and changes
nothing else, the interrupt cell included; after the host's Ack the engine is Running at the same pc. -/
def Obligations.BrkSuspends : Prop :=
  ∀ s : State, ∃ t, exec .brk s = .next t ∧ t.run = .awaitAck .breakpoint .nextIteration ∧ t.pc = s.pc + 1
    ∧ OnlyPcAndRun s t
    ∧ ∀ rest, ∃ u, step (t.withSchedule (.host .ack :: rest)) = .next u ∧ u.run = .running ∧ u.pc = t.pc

/-! ### mov -/

/-- 42_mov.md R170 and R171 (decisions D9, D11, D12, D13): the resolved source, limited to the mode's width and then to the
destination's, is written to the designated register alone. An unknown mode or a designator of no register
writes nothing. Missing operand cells: 40_cycle.md
R139 and 60_exceptions.md R271 (decisions D25, D33, D40; log 20). -/
def Obligations.MovWritesLimitedValue : Prop :=
  (∀ (s : State) (m : Cell) (d : Dest) (v : Value) (r : Reg), designated d = some r →
    (m = s.cfg.movMode8 → ∃ t, exec (.mov (Mode.ofCell s.cfg m) d v) s = .next t
      ∧ (t.readReg r).toNat = (resolve v s).toNat % 2 ^ 8 % 2 ^ regWidth r ∧ t.pc = s.pc + 4 ∧ OnlyPcAndRegs [r] s t)
    ∧ (m ≠ s.cfg.movMode8 → m = s.cfg.movMode16 → ∃ t, exec (.mov (Mode.ofCell s.cfg m) d v) s = .next t
      ∧ (t.readReg r).toNat = (resolve v s).toNat % 2 ^ 16 % 2 ^ regWidth r ∧ t.pc = s.pc + 4
      ∧ OnlyPcAndRegs [r] s t))
    ∧ (∀ (s : State) (m : Cell) (d : Dest) (v : Value),
        (m ≠ s.cfg.movMode8 ∧ m ≠ s.cfg.movMode16) ∨ designated d = none →
        ∃ t, exec (.mov (Mode.ofCell s.cfg m) d v) s = .next t ∧ t.pc = s.pc + 4 ∧ OnlyPcAndRegs [] s t)
    ∧ MissingOperandsFault .mov

/-! ### Jumps -/

/-- 44_jumps.md R211, with the raw operand cell as target (R210, decision D17).
Missing operand cells: 40_cycle.md R139 and 60_exceptions.md R271 (decisions D25, D33, D40; log 20). -/
def Obligations.JmpSetsPc : Prop :=
  (∀ (s : State) (a : Cell), ∃ t, exec (.jmp a) s = .next t ∧ t.pc.toNat = a.toNat ∧ OnlyPcAndRegs [] s t)
    ∧ (∀ (cfg : Config) (a : Cell), encode cfg (.jmp a) = [cfg.opJmp, a]) ∧ MissingOperandsFault .jmp

/-- 44_jumps.md R212 and R213 (that the compare value is resolved and the target is not: decision D17).
Missing operand cells: 40_cycle.md R139 and 60_exceptions.md R271 (decisions D25, D33, D40; log 20). -/
def Obligations.JeAndJneCompareRs : Prop :=
  (∀ (s : State) (v : Value) (a : Cell), ∃ t, exec (.je v a) s = .next t ∧ OnlyPcAndRegs [] s t
      ∧ (s.readReg .rs = resolve v s → t.pc.toNat = a.toNat) ∧ (s.readReg .rs ≠ resolve v s → t.pc = s.pc + 3))
    ∧ (∀ (s : State) (v : Value) (a : Cell), ∃ t, exec (.jne v a) s = .next t ∧ OnlyPcAndRegs [] s t
      ∧ (s.readReg .rs ≠ resolve v s → t.pc.toNat = a.toNat) ∧ (s.readReg .rs = resolve v s → t.pc = s.pc + 3))
    ∧ MissingOperandsFault .je ∧ MissingOperandsFault .jne

/-- 44_jumps.md R214 and R215, with the raw operand cell as target (R210, decision D17).
Missing operand cells: 40_cycle.md R139 and 60_exceptions.md R271 (decisions D25, D33, D40; log 20). -/
def Obligations.JzAndJnzTestRs : Prop :=
  (∀ (s : State) (a : Cell), ∃ t, exec (.jz a) s = .next t ∧ OnlyPcAndRegs [] s t
      ∧ (s.readReg .rs = 0 → t.pc.toNat = a.toNat) ∧ (s.readReg .rs ≠ 0 → t.pc = s.pc + 2))
    ∧ (∀ (s : State) (a : Cell), ∃ t, exec (.jnz a) s = .next t ∧ OnlyPcAndRegs [] s t
      ∧ (s.readReg .rs ≠ 0 → t.pc.toNat = a.toNat) ∧ (s.readReg .rs = 0 → t.pc = s.pc + 2))
    ∧ (∀ (cfg : Config) (a : Cell), encode cfg (.jz a) = [cfg.opJz, a] ∧ encode cfg (.jnz a) = [cfg.opJnz, a])
    ∧ MissingOperandsFault .jz ∧ MissingOperandsFault .jnz

/-! ### Arithmetic -/

/-- 45_alu.md R231, R232 and R233 (wrapping: decision D14): RS is the exact result modulo 2^32, and nothing else changes
but pc. Missing operand cells: 40_cycle.md
R139 and 60_exceptions.md R271 (decisions D25, D33, D40; log 20). -/
def Obligations.AddSubMulWrapIntoRs : Prop :=
  (∀ (s : State) (v w : Value), ∃ t, exec (.add v w) s = .next t ∧ t.pc = s.pc + 3 ∧ OnlyPcAndRegs [.rs] s t
      ∧ (t.readReg .rs).toNat = ((resolve v s).toNat + (resolve w s).toNat) % 2 ^ 32)
    ∧ (∀ (s : State) (v w : Value), ∃ t, exec (.sub v w) s = .next t ∧ t.pc = s.pc + 3 ∧ OnlyPcAndRegs [.rs] s t
      ∧ ((t.readReg .rs).toNat : Int) = ((resolve v s).toNat - (resolve w s).toNat : Int) % 2 ^ 32)
    ∧ (∀ (s : State) (v w : Value), ∃ t, exec (.mul v w) s = .next t ∧ t.pc = s.pc + 3 ∧ OnlyPcAndRegs [.rs] s t
      ∧ (t.readReg .rs).toNat = ((resolve v s).toNat * (resolve w s).toNat) % 2 ^ 32)
    ∧ (∀ (cfg : Config) (v w : Value), encode cfg (.add v w) = [cfg.opAdd, v.toCell cfg, w.toCell cfg]
      ∧ encode cfg (.sub v w) = [cfg.opSub, v.toCell cfg, w.toCell cfg]
      ∧ encode cfg (.mul v w) = [cfg.opMul, v.toCell cfg, w.toCell cfg])
    ∧ MissingOperandsFault .add ∧ MissingOperandsFault .sub ∧ MissingOperandsFault .mul

/-- 45_alu.md R234 (decision D14): for a divisor that is not 0, RS is the signed quotient rounded toward zero: the one
quotient whose remainder is smaller than the divisor and has the dividend's sign. -2^31 by -1 wraps. A literal from
2^31 up, which only CELL_BITS = 32 holds, is read as negative: the model's choice between R97 and the pseudocode (log 25).
Missing operand cells: 40_cycle.md R139 and 60_exceptions.md R271 (decisions D25, D33, D40; log 20). -/
def Obligations.DivTruncatesTowardZero : Prop :=
  (∀ (s : State) (v w : Value), resolve w s ≠ 0 → ∃ t, exec (.div v w) s = .next t ∧ t.pc = s.pc + 3
    ∧ OnlyPcAndRegs [.rs] s t
    ∧ (∃ q m : Int, (resolve v s).toInt = q * (resolve w s).toInt + m ∧ |m| < |(resolve w s).toInt|
        ∧ 0 ≤ m * (resolve v s).toInt ∧ t.readReg .rs = BitVec.ofInt 32 q)
    ∧ (resolve v s = 0x80000000#32 → resolve w s = 0xFFFFFFFF#32 → t.readReg .rs = 0x80000000#32))
    ∧ MissingOperandsFault .div

/-- 45_alu.md R234 (decision D15): a zero divisor enters Faulted(DivideByZero) with pc past the instruction and RS, like
everything else, as it was. This is where div traps, not where it completes. -/
def Obligations.DivByZeroFaults : Prop :=
  ∀ (s : State) (v w : Value), resolve w s = 0 →
    ∃ t, exec (.div v w) s = .next t ∧ t.run = .faulted .divideByZero ∧ t.pc = s.pc + 3 ∧ OnlyPcAndRun s t

/-- 45_alu.md R235 and R236 (decision D12): the five countable registers count modulo 2^32; any other designator is passed
over with no effect. Missing operand cells: 40_cycle.md
R139 and 60_exceptions.md R271 (decisions D25, D33, D40; log 20). -/
def Obligations.IncAndDecCount : Prop :=
  (∀ (s : State) (d : Dest) (r : Reg), designated d = some r → r ∈ [Reg.eax, .ebx, .ecx, .edx, .rs] →
    (∃ t, exec (.inc d) s = .next t ∧ t.pc = s.pc + 2 ∧ OnlyPcAndRegs [r] s t
      ∧ (t.readReg r).toNat = ((s.readReg r).toNat + 1) % 2 ^ 32)
    ∧ (∃ t, exec (.dec d) s = .next t ∧ t.pc = s.pc + 2 ∧ OnlyPcAndRegs [r] s t
      ∧ (t.readReg r).toNat = ((s.readReg r).toNat + (2 ^ 32 - 1)) % 2 ^ 32))
    ∧ (∀ (s : State) (d : Dest), (∀ r, designated d = some r → r ∉ [Reg.eax, .ebx, .ecx, .edx, .rs]) →
      (∃ t, exec (.inc d) s = .next t ∧ t.pc = s.pc + 2 ∧ OnlyPcAndRegs [] s t)
      ∧ (∃ t, exec (.dec d) s = .next t ∧ t.pc = s.pc + 2 ∧ OnlyPcAndRegs [] s t))
    ∧ MissingOperandsFault .inc ∧ MissingOperandsFault .dec

/-- 45_alu.md R237 (the signed reading: decision D16): a logical AND of positivity, not a bitwise one. A literal from
2^31 up, which only CELL_BITS = 32 holds, is read as negative: the model's choice between R97 and the pseudocode (log 25).
Missing operand cells: 40_cycle.md R139 and 60_exceptions.md R271 (decisions D25, D33, D40; log 20). -/
def Obligations.AndTestsPositivity : Prop :=
  (∀ (s : State) (v w : Value), ∃ t, exec (.and v w) s = .next t ∧ t.pc = s.pc + 3 ∧ OnlyPcAndRegs [.rs] s t
      ∧ (0 < (resolve v s).toInt ∧ 0 < (resolve w s).toInt → t.readReg .rs = 1)
      ∧ ((resolve v s).toInt ≤ 0 ∨ (resolve w s).toInt ≤ 0 → t.readReg .rs = 0))
    ∧ MissingOperandsFault .and

/-! ### uld and the sentinels -/

/-- 46_uld.md R260: with the populated window in memory, as it is in every run (`StepKeepsInvariant`), uld clears exactly
its cells and the index. -/
def Obligations.UldClearsPopulatedWindow : Prop :=
  ∀ s : State, s.dataIndex.toNat = 0 ∨ s.cfg.varLoc + s.dataIndex.toNat ≤ s.cfg.memSize →
    ∃ t, exec .uld s = .next t ∧ t.pc = s.pc + 1 ∧ t.dataIndex = 0 ∧ t.run = s.run ∧ RegsSameBut [] s t
      ∧ ControlSame s t ∧ PortsSame s t
      ∧ (∀ i, i < s.dataIndex.toNat → Memory.read t.mem (s.cfg.varLoc + i) = 0)
      ∧ MemSameBut (fun a => ∃ i, i < s.dataIndex.toNat ∧ a = s.cfg.varLoc + i) s t

/-- 40_cycle.md R135 (decisions D4, D5): each sentinel sets the section and nothing else but pc, and the engine runs it in
either section. SEC_DATA is compared first (R130). -/
def Obligations.SentinelsSwitchSection : Prop :=
  (∀ s : State, ∃ t, exec .secData s = .next t ∧ t.sect = .data ∧ t.pc = s.pc + 1 ∧ OnlyPcAndSection s t)
    ∧ (∀ s : State, ∃ t, exec .secText s = .next t ∧ t.sect = .text ∧ t.pc = s.pc + 1 ∧ OnlyPcAndSection s t)
    ∧ (∀ s : State, EngineReady s → cellAtPc s = s.cfg.secData → step s = exec .secData s)
    ∧ (∀ s : State, EngineReady s → cellAtPc s = s.cfg.secText → s.cfg.secText ≠ s.cfg.secData →
        step s = exec .secText s)

/-- 30_encoding.md R103 (decision D4): SEC_ROM is an unrecognized cell in text and a data cell in data. -/
def Obligations.RomIsNoSentinel : Prop :=
  ∀ s : State,
    (s.sect = .text → ∃ t, exec .secRom s = .next t ∧ ReportedOrSkipped s.cfg.secRom s t)
      ∧ (s.sect = .data → ∃ t, exec .secRom s = .next t ∧ CopiedToWindow s.cfg.secRom s t)

/-! ### int and the syscalls -/

/-- 43_int.md R180 and 60_exceptions.md R276, R277 (decision D19): any code that is not one of the five dispatched ones is
stored and reported, and the run goes on. Missing operand cells: 40_cycle.md
R139 and 60_exceptions.md R271 (decisions D25, D33, D40; log 20). -/
def Obligations.IntReportsOtherCodes : Prop :=
  (∀ (s : State) (c : Cell), s.cfg.intLoc < s.cfg.memSize → c ≠ s.cfg.syscallCode → c ≠ s.cfg.intSingleStep →
    c ≠ s.cfg.intBreakpoint → c ≠ s.cfg.intDoubleFault → c ≠ s.cfg.intOutOfMemory →
    ∃ t, exec (.int c) s = .next t ∧ IntStored c s t ∧ t.run = s.run ∧ t.display = s.display
      ∧ t.report = s.report ++ [.interrupt c s.pc])
    ∧ MissingOperandsFault .int

/-- 60_exceptions.md R276 and R278 (decision D19): the single-step and breakpoint codes suspend; the code is stored. -/
def Obligations.IntSuspends : Prop :=
  ∀ (s : State) (c : Cell), s.cfg.intLoc < s.cfg.memSize → c ≠ s.cfg.syscallCode →
    (c = s.cfg.intSingleStep → ∃ t, exec (.int c) s = .next t ∧ IntStored c s t ∧ PortsSame s t
      ∧ t.run = .awaitAck .singleStep .nextIteration)
    ∧ (c ≠ s.cfg.intSingleStep → c = s.cfg.intBreakpoint → ∃ t, exec (.int c) s = .next t ∧ IntStored c s t
      ∧ PortsSame s t ∧ t.run = .awaitAck .breakpoint .nextIteration)

/-- 60_exceptions.md R276 and R271 (decision D19): the double-fault and out-of-memory codes end the run; the code is stored. -/
def Obligations.IntRaisesTerminalFaults : Prop :=
  ∀ (s : State) (c : Cell), s.cfg.intLoc < s.cfg.memSize → c ≠ s.cfg.syscallCode → c ≠ s.cfg.intSingleStep →
    c ≠ s.cfg.intBreakpoint →
    (c = s.cfg.intDoubleFault → ∃ t, exec (.int c) s = .next t ∧ IntStored c s t ∧ PortsSame s t
      ∧ t.run = .faulted .doubleFault)
    ∧ (c ≠ s.cfg.intDoubleFault → c = s.cfg.intOutOfMemory → ∃ t, exec (.int c) s = .next t ∧ IntStored c s t
      ∧ PortsSame s t ∧ t.run = .faulted .outOfMemory)

/-- 43_int.md R180 and 20_memory.md R63 (decisions D25, D38): where the interrupt cell lies past the end of memory, the
store faults and nothing is dispatched, whatever the code. -/
def Obligations.IntWithoutCellFaults : Prop :=
  ∀ (s : State) (c : Cell), s.cfg.memSize ≤ s.cfg.intLoc →
    ∃ t, exec (.int c) s = .next t ∧ t.run = .faulted .outOfMemory ∧ t.pc = s.pc + 2 ∧ OnlyPcAndRun s t

/-- 43_int.md R182 and 60_exceptions.md R283 (decisions D6, D22, D39): the Restart syscall reloads the original image,
not the current memory, so that even its own store to the interrupt cell is undone. -/
def Obligations.RestartSyscallReloads : Prop :=
  ∀ s : State, s.cfg.intLoc < s.cfg.memSize → s.readReg .eax = s.cfg.sysRestart →
    ∃ t, exec (.int s.cfg.syscallCode) s = .next t ∧ Fresh s.m0 s t ∧ t.run = .running ∧ t.m0 = s.m0
      ∧ t.schedule = s.schedule ∧ t.report = s.report ∧ t.display = s.display ++ [.clear 0, .resetScroll]

/-- 43_int.md R184 (decisions D23, D38): Write text emits the ECX cells from VAR_LOC on, in order; if they do not all lie in
memory it faults and emits nothing. -/
def Obligations.WriteTextSyscall : Prop :=
  ∀ s : State, s.cfg.intLoc < s.cfg.memSize → s.readReg .eax = s.cfg.sysWrite →
    s.cfg.sysWrite ≠ s.cfg.sysRestart → s.readReg .ebx = 1 →
    ((s.readReg .ecx).toNat = 0 ∨ s.cfg.varLoc + (s.readReg .ecx).toNat ≤ s.cfg.memSize →
      ∃ t text, exec (.int s.cfg.syscallCode) s = .next t ∧ IntStored s.cfg.syscallCode s t ∧ t.run = s.run
        ∧ t.report = s.report ∧ t.display = s.display ++ [.drawText text]
        ∧ text.length = (s.readReg .ecx).toNat
        ∧ ∀ i, i < text.length → text[i]? = some (Memory.read t.mem (s.cfg.varLoc + i)))
    ∧ ((s.readReg .ecx).toNat ≠ 0 → s.cfg.memSize < s.cfg.varLoc + (s.readReg .ecx).toNat →
      ∃ t, exec (.int s.cfg.syscallCode) s = .next t ∧ IntStored s.cfg.syscallCode s t ∧ PortsSame s t
        ∧ t.run = .faulted .outOfMemory)

/-- 43_int.md R185, R186 and R187, with R183 (the registers: decision D23): each emits its one display event, with the low
four bits of ECX as the colour and AX, BX as the point. -/
def Obligations.DrawingSyscalls : Prop :=
  ∀ s : State, s.cfg.intLoc < s.cfg.memSize → s.readReg .eax = s.cfg.sysWrite →
    s.cfg.sysWrite ≠ s.cfg.sysRestart → s.readReg .ebx = 2 ∨ s.readReg .ebx = 3 ∨ s.readReg .ebx = 4 →
    ∃ t k, exec (.int s.cfg.syscallCode) s = .next t ∧ IntStored s.cfg.syscallCode s t ∧ t.run = s.run
      ∧ t.report = s.report ∧ BitVec.toNat (w := 4) k = (s.readReg .ecx).toNat % 16
      ∧ (s.readReg .ebx = 2 → t.display = s.display ++ [.clear k])
      ∧ (s.readReg .ebx = 3 → t.display = s.display ++ [.plotPixel s.regs.ax s.regs.bx k])
      ∧ (s.readReg .ebx = 4 → t.display = s.display ++ [.setColor k])

/-- 43_int.md R188 (EAX and EBX: decision D23): every other number and subcode does nothing beyond the int's own store of
its code. -/
def Obligations.OtherSyscallsDoNothing : Prop :=
  ∀ s : State, s.cfg.intLoc < s.cfg.memSize → s.readReg .eax ≠ s.cfg.sysRestart →
    ¬ (s.readReg .eax = s.cfg.sysWrite ∧ s.readReg .ebx ∈ [(1 : Word), 2, 3, 4]) →
    ∃ t, exec (.int s.cfg.syscallCode) s = .next t ∧ IntStored s.cfg.syscallCode s t ∧ PortsSame s t ∧ t.run = s.run

/-! ### The iteration -/

/-- A step runs the decoded instruction (40_cycle.md R130, R137): where the cells from pc on decode to an instruction
that runs in the active section, the step is exec of it at that state, whether the engine's turn is scheduled or is
there because nothing is. -/
def Obligations.StepRunsDecodedInstruction : Prop :=
  (∀ (s : State) (i : Instr), EngineReady s → decode s.cfg (fetchCells s) = .ok i → RunsInSection i s →
    step s = exec i s)
    ∧ (∀ (s : State) (i : Instr) (rest : List Turn), s.schedule = .engine :: rest → EngineReady (s.withSchedule []) →
      decode s.cfg (fetchCells s) = .ok i → RunsInSection i s → step s = exec i (s.withSchedule rest))

/-- From memory to meaning (40_cycle.md R130, R131, R137; 20_memory.md R77): where memory holds the cells of a well-formed
instruction from pc on, the step is exec of that instruction, whatever lies after it and however the cells got there. -/
def Obligations.StepRunsInstructionInMemory : Prop :=
  ∀ (s : State) (i : Instr), s.cfg.wellFormed = true → i.wellFormed s.cfg = true → EngineReady s →
    RunsInSection i s → HoldsFrom s s.pc.toNat (encode s.cfg i) → step s = exec i s

/-- 40_cycle.md R132 (decision D25): PC exhaustion halts before anything else, flags T and R included. -/
def Obligations.PcExhaustionHalts : Prop :=
  ∀ s : State, s.schedule = [] → s.run = .running → s.cfg.memSize ≤ s.pc.toNat →
    ∃ t, step s = .next t ∧ t.run = .halted ∧ t.pc = s.pc ∧ OnlyPcAndRun s t

/-- 40_cycle.md R133 (decision D21): flag T suspends before the fetch and before a requested restart, and stays set. -/
def Obligations.TrapFlagSuspendsBeforeFetch : Prop :=
  ∀ s : State, s.schedule = [] → s.run = .running → s.pc.toNat < s.cfg.memSize → s.flags.t = true →
    ∃ t, step s = .next t ∧ t.run = .awaitAck .singleStep .afterTrapCheck ∧ t.pc = s.pc ∧ OnlyPcAndRun s t

/-- 40_cycle.md R134 and 60_exceptions.md R283 (decision D22): flag R restarts from the retained image, fetches nothing and
leaves the ports alone. -/
def Obligations.RestartFlagRestarts : Prop :=
  ∀ s : State, s.schedule = [] → s.run = .running → s.pc.toNat < s.cfg.memSize → s.flags.t = false →
    s.flags.r = true →
    ∃ t, step s = .next t ∧ Fresh s.m0 s t ∧ t.run = .running ∧ t.m0 = s.m0 ∧ PortsSame s t ∧ t.schedule = []

/-- 40_cycle.md R136 (decision D38): in the data section every cell but the sentinels is copied or, if 0, skipped, whatever
opcode it may equal. -/
def Obligations.DataSectionCopiesCells : Prop :=
  ∀ s : State, EngineReady s → s.sect = .data → cellAtPc s ≠ s.cfg.secData → cellAtPc s ≠ s.cfg.secText →
    ∃ t, step s = .next t ∧ CopiedToWindow (cellAtPc s) s t

/-- 40_cycle.md R137 and R138 (decision D27): in text a cell that is no row of the table is reported, unless it lies in the
interrupt cell or the populated window, and passed over. -/
def Obligations.UnrecognizedCellsReported : Prop :=
  ∀ s : State, EngineReady s → s.sect = .text → (∀ op : Opcode, op.value s.cfg ≠ cellAtPc s) →
    ∃ t, step s = .next t ∧ ReportedOrSkipped (cellAtPc s) s t

/-- 40_cycle.md R139 and 60_exceptions.md R271 (decisions D25, D33, D40; log 20), for every row of the table. -/
def Obligations.MissingOperandCellsFault : Prop := ∀ op : Opcode, MissingOperandsFault op

/-- 60_exceptions.md R279: after an Ack the engine goes on with the next iteration or, after a single step, with the
`Continue()` of the suspended one (40_cycle.md R130): a requested restart, an instruction, a data cell, an
unrecognized cell, or a fault on missing operand cells. That after a single step the engine is Running before
`Continue()`, and that this is the host's same turn, is the model's inference (log 16). -/
def Obligations.AckResumes : Prop :=
  (∀ (s : State) (rest : List Turn) (cause : AckCause), s.schedule = .host .ack :: rest →
    s.run = .awaitAck cause .nextIteration →
    ∃ t, step s = .next t ∧ t.run = .running ∧ t.pc = s.pc ∧ RegsSameBut [] s t ∧ MemSame s t ∧ PortsSame s t
      ∧ t.flags = s.flags ∧ t.sect = s.sect ∧ t.dataIndex = s.dataIndex ∧ t.m0 = s.m0 ∧ t.schedule = rest)
    ∧ (∀ (s : State) (rest : List Turn) (cause : AckCause) (i : Instr), s.schedule = .host .ack :: rest →
      s.run = .awaitAck cause .afterTrapCheck → s.flags.r = false →
      decode s.cfg (fetchCells s) = .ok i → RunsInSection i s →
      step s = exec i ((s.withSchedule rest).withRun .running))
    ∧ (∀ (s : State) (rest : List Turn) (cause : AckCause), s.schedule = .host .ack :: rest →
      s.run = .awaitAck cause .afterTrapCheck → s.flags.r = true →
      ∃ t, step s = .next t ∧ Fresh s.m0 s t ∧ t.run = .running ∧ PortsSame s t ∧ t.schedule = rest)
    ∧ ∀ (s : State) (rest : List Turn) (cause : AckCause), s.schedule = .host .ack :: rest →
      s.run = .awaitAck cause .afterTrapCheck → s.flags.r = false → s.pc.toNat < s.cfg.memSize →
      (s.sect = .data → cellAtPc s ≠ s.cfg.secData → cellAtPc s ≠ s.cfg.secText →
        ∃ t, step s = .next t ∧ CopiedToWindow (cellAtPc s) ((s.withSchedule rest).withRun .running) t)
      ∧ (s.sect = .text → (∀ op : Opcode, op.value s.cfg ≠ cellAtPc s) →
        ∃ t, step s = .next t ∧ ReportedOrSkipped (cellAtPc s) ((s.withSchedule rest).withRun .running) t)
      ∧ (∀ op : Opcode, s.cfg.wellFormed = true → s.sect = .text → cellAtPc s = op.value s.cfg →
        s.cfg.memSize < s.pc.toNat + 1 + op.operands →
        ∃ t, step s = .next t ∧ t.run = .faulted .outOfMemory ∧ t.pc.toNat = s.cfg.memSize
          ∧ OnlyPcAndRun (s.withSchedule rest) t)

/-- 10_state.md R33, 40_cycle.md R141, 60_exceptions.md R289: the engine takes no step unless it is Running. That such a
turn is a next state equal to the one before is the model's choice (log 5). -/
def Obligations.EngineStandsStillUnlessRunning : Prop :=
  ∀ s : State, s.run ≠ .running →
    (s.schedule = [] → step s = .next s)
      ∧ ∀ rest, s.schedule = .engine :: rest → step s = .next (s.withSchedule rest)

/-! ### The host -/

/-- 70_reset_and_hazards.md R312 (decision D30): Load, where it is allowed, installs and retains the image and resets the
engine to Idle. The ports are unchanged (10_state.md R37). -/
def Obligations.LoadInstallsImage : Prop :=
  ∀ (s : State) (image : List Cell) (rest : List Turn), s.schedule = .host (.load image) :: rest →
    LoadAllowed image s →
    ∃ t, step s = .next t ∧ Fresh image s t ∧ t.m0 = image ∧ t.run = .idle ∧ PortsSame s t ∧ t.schedule = rest

/-- 00_scope.md R4 and 70_reset_and_hazards.md R312 (decision D30): Load while Running or suspended, or of an image longer
than memory or with an element wider than a cell, is refused with no change. That Start outside Idle and Ack outside AwaitAck also change nothing is the
model's reading of the column "Allowed when" (log 6). -/
def Obligations.RefusedHostOperationsChangeNothing : Prop :=
  ∀ (s : State) (rest : List Turn),
    (∀ image, s.schedule = .host (.load image) :: rest →
      s.run = .running ∨ (∃ c r, s.run = .awaitAck c r) ∨ s.cfg.memSize < image.length
        ∨ (∃ c ∈ image, 2 ^ s.cfg.cellBits ≤ c.toNat) →
      step s = .next (s.withSchedule rest))
    ∧ (s.schedule = .host .start :: rest → s.run ≠ .idle → step s = .next (s.withSchedule rest))
    ∧ (s.schedule = .host .ack :: rest → (∀ c r, s.run ≠ .awaitAck c r) → step s = .next (s.withSchedule rest))

/-- 00_scope.md R4 and 70_reset_and_hazards.md R313 (decisions D21, D22, D30): what the other host operations change, and
that they change nothing else. -/
def Obligations.HostOperationsChangeOnlyTheirOwn : Prop :=
  ∀ (s : State) (rest : List Turn),
    (s.schedule = .host .start :: rest → s.run = .idle →
      step s = .next ((s.withSchedule rest).withRun .running))
    ∧ (∀ b, s.schedule = .host (.setTrap b) :: rest →
      ∃ t, step s = .next t ∧ t.flags = { s.flags with t := b } ∧ t.withFlags s.flags = s.withSchedule rest)
    ∧ (s.schedule = .host .requestRestart :: rest →
      ∃ t, step s = .next t ∧ t.flags = { s.flags with r := true } ∧ t.withFlags s.flags = s.withSchedule rest)
    ∧ (s.schedule = .host .readState :: rest → step s = .next (s.withSchedule rest))
    ∧ (s.schedule = .host .readPorts :: rest →
      ∃ t, step s = .next t ∧ t.pendingEvents = ([], [])
        ∧ (t.withDisplay s.display).withReport s.report = s.withSchedule rest)

/-! ### Rules of the whole machine -/

/-- No step stops the model: every instruction and every turn answers a next state, a fault of the spec included
(60_exceptions.md R271). That a turn of the engine outside Running is a next state is the model's choice (log 5), and
that a host operation which is not allowed is one is its inference (log 6). -/
def Obligations.EveryStepAnswersNext : Prop :=
  (∀ (i : Instr) (s : State), ∃ t, exec i s = .next t) ∧ ∀ s : State, ∃ t, step s = .next t

/-- Every turn of the engine and of the host keeps the invariant (10_state.md R26, R29, R30, R34; 40_cycle.md R133;
46_uld.md R260, which rests on its clause `window`). -/
def Obligations.StepKeepsInvariant : Prop :=
  ∀ s t : State, Inv s → step s = .next t → Inv t

/-- The invariant holds of the machine at reset. -/
def Obligations.ResetMeetsInvariant : Prop := Inv State.reset

/-- 10_state.md R31: the bits of FlagsByte, without R, and that no instruction reads them: run from a state with other
flags, an instruction gives the same next state but for the flags. -/
def Obligations.FlagsByteIsOnlyAView : Prop :=
  (∀ f : Flags, (flagsByte f).getLsbD 7 = f.z ∧ (flagsByte f).getLsbD 6 = f.c ∧ (flagsByte f).getLsbD 5 = f.o
      ∧ (flagsByte f).getLsbD 4 = f.s ∧ (flagsByte f).getLsbD 3 = f.b ∧ (flagsByte f).getLsbD 2 = f.t
      ∧ (flagsByte f).getLsbD 1 = f.i ∧ (flagsByte f).getLsbD 0 = f.e)
    ∧ (∀ (f : Flags) (b : Bool), flagsByte { f with r := b } = flagsByte f)
    ∧ (∀ s : State, s.hostView.packed = flagsByte s.flags)
    ∧ ∀ (i : Instr) (s t : State) (f : Flags), exec i s = .next t →
        ∃ u, exec i (s.withFlags f) = .next u ∧ u.withFlags t.flags = t

/-- 10_state.md R29, R30 and 45_alu.md R230 (decision D26): no instruction writes a flag, but for the Restart syscall, which
clears all nine. -/
def Obligations.OnlyRestartWritesFlags : Prop :=
  ∀ (i : Instr) (s t : State), exec i s = .next t →
    t.flags = s.flags ∨ (IsRestart i s ∧ t.flags = Flags.zero)

/-- 10_state.md R24: which instructions write which registers. The index registers are written by Restart alone. -/
def Obligations.RegisterWriters : Prop :=
  (∀ (i : Instr) (s t : State) (r : Reg), exec i s = .next t → t.readReg r ≠ s.readReg r →
    (∃ m d v, i = .mov m d v ∧ designated d = some r)
      ∨ (∃ d, (i = .inc d ∨ i = .dec d) ∧ designated d = some r ∧ r ∈ [Reg.eax, .ebx, .ecx, .edx, .rs])
      ∨ (i.opcode ∈ [Opcode.add, .sub, .mul, .div, .and] ∧ r = .rs)
      ∨ (IsRestart i s ∧ t.readReg r = 0))
    ∧ ∀ (i : Instr) (s t : State), exec i s = .next t → ¬ IsRestart i s →
      t.regs.edi = s.regs.edi ∧ t.regs.esi = s.regs.esi ∧ t.regs.esp = s.regs.esp ∧ t.regs.ebp = s.regs.ebp

/-- 20_memory.md R73: the only cells an instruction changes are the interrupt cell (int), the populated data window (uld),
any cell (the Restart syscall) and, for the reserved sentinel read as a data cell, the cell at the window's end. -/
def Obligations.MemoryWriters : Prop :=
  ∀ (i : Instr) (s t : State) (a : Nat), exec i s = .next t → Memory.read t.mem a ≠ Memory.read s.mem a →
    (∃ c, i = .int c ∧ a = s.cfg.intLoc) ∨ IsRestart i s
      ∨ (i = .uld ∧ s.cfg.varLoc ≤ a ∧ a < s.cfg.varLoc + s.dataIndex.toNat)
      ∨ (i = .secRom ∧ s.sect = .data ∧ a = s.cfg.varLoc + s.dataIndex.toNat)

/-- 10_state.md R35: no instruction writes M0, and no step but an allowed Load does, which retains its image. -/
def Obligations.OnlyLoadWritesImage : Prop :=
  (∀ (i : Instr) (s t : State), exec i s = .next t → t.m0 = s.m0)
    ∧ (∀ s t : State, step s = .next t → t.m0 = s.m0
      ∨ ∃ image rest, s.schedule = .host (.load image) :: rest ∧ LoadAllowed image s ∧ t.m0 = image)
    ∧ ∀ (s t : State) (image : List Cell) (rest : List Turn), s.schedule = .host (.load image) :: rest →
      LoadAllowed image s → step s = .next t → t.m0 = image

/-- 10_state.md R36, 00_scope.md R5 and R6 (decisions D28, D36): the ports only grow, restarts and loads included, until the
host reads them, which empties both. -/
def Obligations.PortsOnlyGrowUntilRead : Prop :=
  ∀ s t : State, step s = .next t →
    (s.display <+: t.display ∧ s.report <+: t.report)
      ∨ (∃ rest, s.schedule = .host .readPorts :: rest ∧ t.display = [] ∧ t.report = [])

/-- 10_state.md R33 and 60_exceptions.md R289 (decision D40): only Load leaves Halted or Faulted; any other turn keeps the
run state, every register, every cell and pc. -/
def Obligations.OnlyLoadLeavesTerminalStates : Prop :=
  ∀ s t : State, ended s → step s = .next t →
    (∃ image rest, s.schedule = .host (.load image) :: rest ∧ LoadAllowed image s ∧ t.run = .idle)
      ∨ (t.run = s.run ∧ t.regs = s.regs ∧ t.mem = s.mem ∧ t.pc = s.pc ∧ t.sect = s.sect
          ∧ t.dataIndex = s.dataIndex)

/-- 60_exceptions.md R279 and R280: only Ack leaves AwaitAck; any other turn keeps it, with every register, every cell and
pc. -/
def Obligations.OnlyAckLeavesAwaitAck : Prop :=
  ∀ (s t : State) (cause : AckCause) (resume : Resume), s.run = .awaitAck cause resume → step s = .next t →
    (∃ rest, s.schedule = .host .ack :: rest)
      ∨ (t.run = s.run ∧ t.regs = s.regs ∧ t.mem = s.mem ∧ t.pc = s.pc ∧ t.sect = s.sect
          ∧ t.dataIndex = s.dataIndex)

/-- 60_exceptions.md R270, R272 and R281 (decisions D15, D19, D29): what the effect of an instruction, its operands fetched,
can have raised, by cause. A double fault comes from int alone, a divide by zero from div by 0, a breakpoint
suspension from brk or int, and Halted from hlt. With the populated window in memory, as it is in every run
(`StepKeepsInvariant`), uld runs out of memory never (46_uld.md R260), and int only as `IntRunsOutOfMemory` says. That
the reserved rom sentinel is among the instructions at all is the model's choice (log 10). -/
def Obligations.EventSources : Prop :=
  ∀ (i : Instr) (s t : State), exec i s = .next t → s.run = .running →
    (t.run = .faulted .doubleFault → i = .int s.cfg.intDoubleFault)
      ∧ (t.run = .faulted .divideByZero → ∃ v w, i = .div v w ∧ resolve w s = 0)
      ∧ (s.dataIndex.toNat = 0 ∨ s.cfg.varLoc + s.dataIndex.toNat ≤ s.cfg.memSize → t.run = .faulted .outOfMemory →
          (∃ c, i = .int c ∧ IntRunsOutOfMemory c s)
            ∨ (i = .secRom ∧ s.sect = .data ∧ s.cfg.secRom ≠ 0
                ∧ s.cfg.memSize ≤ s.cfg.varLoc + s.dataIndex.toNat))
      ∧ (∀ resume, t.run = .awaitAck .breakpoint resume →
          resume = .nextIteration ∧ (i = .brk ∨ i = .int s.cfg.intBreakpoint))
      ∧ (∀ resume, t.run = .awaitAck .singleStep resume →
          resume = .nextIteration ∧ i = .int s.cfg.intSingleStep)
      ∧ (t.run = .halted → i = .hlt) ∧ t.run ≠ .idle

/-- 00_scope.md R3: no instruction and no step changes the implementation parameters. That they stand in a field of State
is the model's choice (log 2). -/
def Obligations.ParametersNeverChange : Prop :=
  (∀ (i : Instr) (s t : State), exec i s = .next t → t.cfg = s.cfg)
    ∧ ∀ s t : State, step s = .next t → t.cfg = s.cfg

/-- 40_cycle.md R130: what the engine's turn does with nothing scheduled it does where it is scheduled too, and the rest of
the schedule stays. So every statement here about a step with an empty schedule (PC exhaustion, the single step, the
restart, data cells, unrecognized cells, missing operand cells) is one about a scheduled turn as well. That turns are
scheduled at all is the model's choice (log 4). -/
def Obligations.ScheduledEngineTurnDoesTheSame : Prop :=
  ∀ (s : State) (rest : List Turn), s.schedule = .engine :: rest →
    ∃ t, step (s.withSchedule []) = .next t ∧ t.schedule = [] ∧ step s = .next (t.withSchedule rest)

/-- 20_memory.md R61, 10_state.md R26 and R34, 00_scope.md section 5 (decisions D1, D35): in every state with the invariant,
for every `CELL_BITS`, each cell of memory and of the retained image fits `CELL_BITS` bits, and pc and data_index fit
`PC_BITS` = `CELL_BITS` + 1 bits. -/
def Obligations.WidthsHold : Prop :=
  ∀ s : State, Inv s → s.cfg.pcBits = s.cfg.cellBits + 1
    ∧ (∀ a, (Memory.read s.mem a).toNat < 2 ^ s.cfg.cellBits) ∧ (∀ c ∈ s.m0, c.toNat < 2 ^ s.cfg.cellBits)
    ∧ s.pc.toNat < 2 ^ s.cfg.pcBits ∧ s.dataIndex.toNat < 2 ^ s.cfg.pcBits
end

