-- ==== Sys2Proof/Laws/State.lean ====
section
/-! SUPPORT. The fields of State after each update: one lemma per field per update, so that no proof unfolds a
record update. The updates of several fields have theirs as well. -/

namespace Sys2Proof.Machine

/-! ### `withRegs` -/

@[simp] theorem State.withRegs_cfg (s : State) (v : RegFile) : (s.withRegs v).cfg = s.cfg := rfl
@[simp] theorem State.withRegs_regs (s : State) (v : RegFile) : (s.withRegs v).regs = v := rfl
@[simp] theorem State.withRegs_flags (s : State) (v : RegFile) : (s.withRegs v).flags = s.flags := rfl
@[simp] theorem State.withRegs_pc (s : State) (v : RegFile) : (s.withRegs v).pc = s.pc := rfl
@[simp] theorem State.withRegs_sect (s : State) (v : RegFile) : (s.withRegs v).sect = s.sect := rfl
@[simp] theorem State.withRegs_dataIndex (s : State) (v : RegFile) : (s.withRegs v).dataIndex = s.dataIndex := rfl
@[simp] theorem State.withRegs_run (s : State) (v : RegFile) : (s.withRegs v).run = s.run := rfl
@[simp] theorem State.withRegs_mem (s : State) (v : RegFile) : (s.withRegs v).mem = s.mem := rfl
@[simp] theorem State.withRegs_m0 (s : State) (v : RegFile) : (s.withRegs v).m0 = s.m0 := rfl
@[simp] theorem State.withRegs_display (s : State) (v : RegFile) : (s.withRegs v).display = s.display := rfl
@[simp] theorem State.withRegs_report (s : State) (v : RegFile) : (s.withRegs v).report = s.report := rfl
@[simp] theorem State.withRegs_schedule (s : State) (v : RegFile) : (s.withRegs v).schedule = s.schedule := rfl

/-! ### `withFlags` -/

@[simp] theorem State.withFlags_cfg (s : State) (v : Flags) : (s.withFlags v).cfg = s.cfg := rfl
@[simp] theorem State.withFlags_regs (s : State) (v : Flags) : (s.withFlags v).regs = s.regs := rfl
@[simp] theorem State.withFlags_flags (s : State) (v : Flags) : (s.withFlags v).flags = v := rfl
@[simp] theorem State.withFlags_pc (s : State) (v : Flags) : (s.withFlags v).pc = s.pc := rfl
@[simp] theorem State.withFlags_sect (s : State) (v : Flags) : (s.withFlags v).sect = s.sect := rfl
@[simp] theorem State.withFlags_dataIndex (s : State) (v : Flags) : (s.withFlags v).dataIndex = s.dataIndex := rfl
@[simp] theorem State.withFlags_run (s : State) (v : Flags) : (s.withFlags v).run = s.run := rfl
@[simp] theorem State.withFlags_mem (s : State) (v : Flags) : (s.withFlags v).mem = s.mem := rfl
@[simp] theorem State.withFlags_m0 (s : State) (v : Flags) : (s.withFlags v).m0 = s.m0 := rfl
@[simp] theorem State.withFlags_display (s : State) (v : Flags) : (s.withFlags v).display = s.display := rfl
@[simp] theorem State.withFlags_report (s : State) (v : Flags) : (s.withFlags v).report = s.report := rfl
@[simp] theorem State.withFlags_schedule (s : State) (v : Flags) : (s.withFlags v).schedule = s.schedule := rfl

/-! ### `withPc` -/

@[simp] theorem State.withPc_cfg (s : State) (v : Addr) : (s.withPc v).cfg = s.cfg := rfl
@[simp] theorem State.withPc_regs (s : State) (v : Addr) : (s.withPc v).regs = s.regs := rfl
@[simp] theorem State.withPc_flags (s : State) (v : Addr) : (s.withPc v).flags = s.flags := rfl
@[simp] theorem State.withPc_pc (s : State) (v : Addr) : (s.withPc v).pc = v := rfl
@[simp] theorem State.withPc_sect (s : State) (v : Addr) : (s.withPc v).sect = s.sect := rfl
@[simp] theorem State.withPc_dataIndex (s : State) (v : Addr) : (s.withPc v).dataIndex = s.dataIndex := rfl
@[simp] theorem State.withPc_run (s : State) (v : Addr) : (s.withPc v).run = s.run := rfl
@[simp] theorem State.withPc_mem (s : State) (v : Addr) : (s.withPc v).mem = s.mem := rfl
@[simp] theorem State.withPc_m0 (s : State) (v : Addr) : (s.withPc v).m0 = s.m0 := rfl
@[simp] theorem State.withPc_display (s : State) (v : Addr) : (s.withPc v).display = s.display := rfl
@[simp] theorem State.withPc_report (s : State) (v : Addr) : (s.withPc v).report = s.report := rfl
@[simp] theorem State.withPc_schedule (s : State) (v : Addr) : (s.withPc v).schedule = s.schedule := rfl

/-! ### `withSect` -/

@[simp] theorem State.withSect_cfg (s : State) (v : Section) : (s.withSect v).cfg = s.cfg := rfl
@[simp] theorem State.withSect_regs (s : State) (v : Section) : (s.withSect v).regs = s.regs := rfl
@[simp] theorem State.withSect_flags (s : State) (v : Section) : (s.withSect v).flags = s.flags := rfl
@[simp] theorem State.withSect_pc (s : State) (v : Section) : (s.withSect v).pc = s.pc := rfl
@[simp] theorem State.withSect_sect (s : State) (v : Section) : (s.withSect v).sect = v := rfl
@[simp] theorem State.withSect_dataIndex (s : State) (v : Section) : (s.withSect v).dataIndex = s.dataIndex := rfl
@[simp] theorem State.withSect_run (s : State) (v : Section) : (s.withSect v).run = s.run := rfl
@[simp] theorem State.withSect_mem (s : State) (v : Section) : (s.withSect v).mem = s.mem := rfl
@[simp] theorem State.withSect_m0 (s : State) (v : Section) : (s.withSect v).m0 = s.m0 := rfl
@[simp] theorem State.withSect_display (s : State) (v : Section) : (s.withSect v).display = s.display := rfl
@[simp] theorem State.withSect_report (s : State) (v : Section) : (s.withSect v).report = s.report := rfl
@[simp] theorem State.withSect_schedule (s : State) (v : Section) : (s.withSect v).schedule = s.schedule := rfl

/-! ### `withDataIndex` -/

@[simp] theorem State.withDataIndex_cfg (s : State) (v : Addr) : (s.withDataIndex v).cfg = s.cfg := rfl
@[simp] theorem State.withDataIndex_regs (s : State) (v : Addr) : (s.withDataIndex v).regs = s.regs := rfl
@[simp] theorem State.withDataIndex_flags (s : State) (v : Addr) : (s.withDataIndex v).flags = s.flags := rfl
@[simp] theorem State.withDataIndex_pc (s : State) (v : Addr) : (s.withDataIndex v).pc = s.pc := rfl
@[simp] theorem State.withDataIndex_sect (s : State) (v : Addr) : (s.withDataIndex v).sect = s.sect := rfl
@[simp] theorem State.withDataIndex_dataIndex (s : State) (v : Addr) : (s.withDataIndex v).dataIndex = v := rfl
@[simp] theorem State.withDataIndex_run (s : State) (v : Addr) : (s.withDataIndex v).run = s.run := rfl
@[simp] theorem State.withDataIndex_mem (s : State) (v : Addr) : (s.withDataIndex v).mem = s.mem := rfl
@[simp] theorem State.withDataIndex_m0 (s : State) (v : Addr) : (s.withDataIndex v).m0 = s.m0 := rfl
@[simp] theorem State.withDataIndex_display (s : State) (v : Addr) : (s.withDataIndex v).display = s.display := rfl
@[simp] theorem State.withDataIndex_report (s : State) (v : Addr) : (s.withDataIndex v).report = s.report := rfl
@[simp] theorem State.withDataIndex_schedule (s : State) (v : Addr) : (s.withDataIndex v).schedule = s.schedule := rfl

/-! ### `withRun` -/

@[simp] theorem State.withRun_cfg (s : State) (v : RunState) : (s.withRun v).cfg = s.cfg := rfl
@[simp] theorem State.withRun_regs (s : State) (v : RunState) : (s.withRun v).regs = s.regs := rfl
@[simp] theorem State.withRun_flags (s : State) (v : RunState) : (s.withRun v).flags = s.flags := rfl
@[simp] theorem State.withRun_pc (s : State) (v : RunState) : (s.withRun v).pc = s.pc := rfl
@[simp] theorem State.withRun_sect (s : State) (v : RunState) : (s.withRun v).sect = s.sect := rfl
@[simp] theorem State.withRun_dataIndex (s : State) (v : RunState) : (s.withRun v).dataIndex = s.dataIndex := rfl
@[simp] theorem State.withRun_run (s : State) (v : RunState) : (s.withRun v).run = v := rfl
@[simp] theorem State.withRun_mem (s : State) (v : RunState) : (s.withRun v).mem = s.mem := rfl
@[simp] theorem State.withRun_m0 (s : State) (v : RunState) : (s.withRun v).m0 = s.m0 := rfl
@[simp] theorem State.withRun_display (s : State) (v : RunState) : (s.withRun v).display = s.display := rfl
@[simp] theorem State.withRun_report (s : State) (v : RunState) : (s.withRun v).report = s.report := rfl
@[simp] theorem State.withRun_schedule (s : State) (v : RunState) : (s.withRun v).schedule = s.schedule := rfl

/-! ### `withMem` -/

@[simp] theorem State.withMem_cfg (s : State) (v : Memory) : (s.withMem v).cfg = s.cfg := rfl
@[simp] theorem State.withMem_regs (s : State) (v : Memory) : (s.withMem v).regs = s.regs := rfl
@[simp] theorem State.withMem_flags (s : State) (v : Memory) : (s.withMem v).flags = s.flags := rfl
@[simp] theorem State.withMem_pc (s : State) (v : Memory) : (s.withMem v).pc = s.pc := rfl
@[simp] theorem State.withMem_sect (s : State) (v : Memory) : (s.withMem v).sect = s.sect := rfl
@[simp] theorem State.withMem_dataIndex (s : State) (v : Memory) : (s.withMem v).dataIndex = s.dataIndex := rfl
@[simp] theorem State.withMem_run (s : State) (v : Memory) : (s.withMem v).run = s.run := rfl
@[simp] theorem State.withMem_mem (s : State) (v : Memory) : (s.withMem v).mem = v := rfl
@[simp] theorem State.withMem_m0 (s : State) (v : Memory) : (s.withMem v).m0 = s.m0 := rfl
@[simp] theorem State.withMem_display (s : State) (v : Memory) : (s.withMem v).display = s.display := rfl
@[simp] theorem State.withMem_report (s : State) (v : Memory) : (s.withMem v).report = s.report := rfl
@[simp] theorem State.withMem_schedule (s : State) (v : Memory) : (s.withMem v).schedule = s.schedule := rfl

/-! ### `withM0` -/

@[simp] theorem State.withM0_cfg (s : State) (v : List Cell) : (s.withM0 v).cfg = s.cfg := rfl
@[simp] theorem State.withM0_regs (s : State) (v : List Cell) : (s.withM0 v).regs = s.regs := rfl
@[simp] theorem State.withM0_flags (s : State) (v : List Cell) : (s.withM0 v).flags = s.flags := rfl
@[simp] theorem State.withM0_pc (s : State) (v : List Cell) : (s.withM0 v).pc = s.pc := rfl
@[simp] theorem State.withM0_sect (s : State) (v : List Cell) : (s.withM0 v).sect = s.sect := rfl
@[simp] theorem State.withM0_dataIndex (s : State) (v : List Cell) : (s.withM0 v).dataIndex = s.dataIndex := rfl
@[simp] theorem State.withM0_run (s : State) (v : List Cell) : (s.withM0 v).run = s.run := rfl
@[simp] theorem State.withM0_mem (s : State) (v : List Cell) : (s.withM0 v).mem = s.mem := rfl
@[simp] theorem State.withM0_m0 (s : State) (v : List Cell) : (s.withM0 v).m0 = v := rfl
@[simp] theorem State.withM0_display (s : State) (v : List Cell) : (s.withM0 v).display = s.display := rfl
@[simp] theorem State.withM0_report (s : State) (v : List Cell) : (s.withM0 v).report = s.report := rfl
@[simp] theorem State.withM0_schedule (s : State) (v : List Cell) : (s.withM0 v).schedule = s.schedule := rfl

/-! ### `withDisplay` -/

@[simp] theorem State.withDisplay_cfg (s : State) (v : List DisplayEvent) : (s.withDisplay v).cfg = s.cfg := rfl
@[simp] theorem State.withDisplay_regs (s : State) (v : List DisplayEvent) : (s.withDisplay v).regs = s.regs := rfl
@[simp] theorem State.withDisplay_flags (s : State) (v : List DisplayEvent) : (s.withDisplay v).flags = s.flags := rfl
@[simp] theorem State.withDisplay_pc (s : State) (v : List DisplayEvent) : (s.withDisplay v).pc = s.pc := rfl
@[simp] theorem State.withDisplay_sect (s : State) (v : List DisplayEvent) : (s.withDisplay v).sect = s.sect := rfl
@[simp] theorem State.withDisplay_dataIndex (s : State) (v : List DisplayEvent) : (s.withDisplay v).dataIndex = s.dataIndex := rfl
@[simp] theorem State.withDisplay_run (s : State) (v : List DisplayEvent) : (s.withDisplay v).run = s.run := rfl
@[simp] theorem State.withDisplay_mem (s : State) (v : List DisplayEvent) : (s.withDisplay v).mem = s.mem := rfl
@[simp] theorem State.withDisplay_m0 (s : State) (v : List DisplayEvent) : (s.withDisplay v).m0 = s.m0 := rfl
@[simp] theorem State.withDisplay_display (s : State) (v : List DisplayEvent) : (s.withDisplay v).display = v := rfl
@[simp] theorem State.withDisplay_report (s : State) (v : List DisplayEvent) : (s.withDisplay v).report = s.report := rfl
@[simp] theorem State.withDisplay_schedule (s : State) (v : List DisplayEvent) : (s.withDisplay v).schedule = s.schedule := rfl

/-! ### `withReport` -/

@[simp] theorem State.withReport_cfg (s : State) (v : List ReportEvent) : (s.withReport v).cfg = s.cfg := rfl
@[simp] theorem State.withReport_regs (s : State) (v : List ReportEvent) : (s.withReport v).regs = s.regs := rfl
@[simp] theorem State.withReport_flags (s : State) (v : List ReportEvent) : (s.withReport v).flags = s.flags := rfl
@[simp] theorem State.withReport_pc (s : State) (v : List ReportEvent) : (s.withReport v).pc = s.pc := rfl
@[simp] theorem State.withReport_sect (s : State) (v : List ReportEvent) : (s.withReport v).sect = s.sect := rfl
@[simp] theorem State.withReport_dataIndex (s : State) (v : List ReportEvent) : (s.withReport v).dataIndex = s.dataIndex := rfl
@[simp] theorem State.withReport_run (s : State) (v : List ReportEvent) : (s.withReport v).run = s.run := rfl
@[simp] theorem State.withReport_mem (s : State) (v : List ReportEvent) : (s.withReport v).mem = s.mem := rfl
@[simp] theorem State.withReport_m0 (s : State) (v : List ReportEvent) : (s.withReport v).m0 = s.m0 := rfl
@[simp] theorem State.withReport_display (s : State) (v : List ReportEvent) : (s.withReport v).display = s.display := rfl
@[simp] theorem State.withReport_report (s : State) (v : List ReportEvent) : (s.withReport v).report = v := rfl
@[simp] theorem State.withReport_schedule (s : State) (v : List ReportEvent) : (s.withReport v).schedule = s.schedule := rfl

/-! ### `withSchedule` -/

@[simp] theorem State.withSchedule_cfg (s : State) (v : List Turn) : (s.withSchedule v).cfg = s.cfg := rfl
@[simp] theorem State.withSchedule_regs (s : State) (v : List Turn) : (s.withSchedule v).regs = s.regs := rfl
@[simp] theorem State.withSchedule_flags (s : State) (v : List Turn) : (s.withSchedule v).flags = s.flags := rfl
@[simp] theorem State.withSchedule_pc (s : State) (v : List Turn) : (s.withSchedule v).pc = s.pc := rfl
@[simp] theorem State.withSchedule_sect (s : State) (v : List Turn) : (s.withSchedule v).sect = s.sect := rfl
@[simp] theorem State.withSchedule_dataIndex (s : State) (v : List Turn) : (s.withSchedule v).dataIndex = s.dataIndex := rfl
@[simp] theorem State.withSchedule_run (s : State) (v : List Turn) : (s.withSchedule v).run = s.run := rfl
@[simp] theorem State.withSchedule_mem (s : State) (v : List Turn) : (s.withSchedule v).mem = s.mem := rfl
@[simp] theorem State.withSchedule_m0 (s : State) (v : List Turn) : (s.withSchedule v).m0 = s.m0 := rfl
@[simp] theorem State.withSchedule_display (s : State) (v : List Turn) : (s.withSchedule v).display = s.display := rfl
@[simp] theorem State.withSchedule_report (s : State) (v : List Turn) : (s.withSchedule v).report = s.report := rfl
@[simp] theorem State.withSchedule_schedule (s : State) (v : List Turn) : (s.withSchedule v).schedule = v := rfl

/-! ### `State.advance` -/

@[simp] theorem State.advance_cfg (s : State) (n : Nat) : (s.advance n).cfg = s.cfg := rfl
@[simp] theorem State.advance_regs (s : State) (n : Nat) : (s.advance n).regs = s.regs := rfl
@[simp] theorem State.advance_flags (s : State) (n : Nat) : (s.advance n).flags = s.flags := rfl
@[simp] theorem State.advance_pc (s : State) (n : Nat) : (s.advance n).pc = s.pc + BitVec.ofNat 33 n := rfl
@[simp] theorem State.advance_sect (s : State) (n : Nat) : (s.advance n).sect = s.sect := rfl
@[simp] theorem State.advance_dataIndex (s : State) (n : Nat) : (s.advance n).dataIndex = s.dataIndex := rfl
@[simp] theorem State.advance_run (s : State) (n : Nat) : (s.advance n).run = s.run := rfl
@[simp] theorem State.advance_mem (s : State) (n : Nat) : (s.advance n).mem = s.mem := rfl
@[simp] theorem State.advance_m0 (s : State) (n : Nat) : (s.advance n).m0 = s.m0 := rfl
@[simp] theorem State.advance_display (s : State) (n : Nat) : (s.advance n).display = s.display := rfl
@[simp] theorem State.advance_report (s : State) (n : Nat) : (s.advance n).report = s.report := rfl
@[simp] theorem State.advance_schedule (s : State) (n : Nat) : (s.advance n).schedule = s.schedule := rfl

/-! ### `State.writeReg` -/

@[simp] theorem State.writeReg_cfg (s : State) (r : Reg) (v : Word) : (s.writeReg r v).cfg = s.cfg := rfl
@[simp] theorem State.writeReg_regs (s : State) (r : Reg) (v : Word) : (s.writeReg r v).regs = s.regs.write r v := rfl
@[simp] theorem State.writeReg_flags (s : State) (r : Reg) (v : Word) : (s.writeReg r v).flags = s.flags := rfl
@[simp] theorem State.writeReg_pc (s : State) (r : Reg) (v : Word) : (s.writeReg r v).pc = s.pc := rfl
@[simp] theorem State.writeReg_sect (s : State) (r : Reg) (v : Word) : (s.writeReg r v).sect = s.sect := rfl
@[simp] theorem State.writeReg_dataIndex (s : State) (r : Reg) (v : Word) : (s.writeReg r v).dataIndex = s.dataIndex := rfl
@[simp] theorem State.writeReg_run (s : State) (r : Reg) (v : Word) : (s.writeReg r v).run = s.run := rfl
@[simp] theorem State.writeReg_mem (s : State) (r : Reg) (v : Word) : (s.writeReg r v).mem = s.mem := rfl
@[simp] theorem State.writeReg_m0 (s : State) (r : Reg) (v : Word) : (s.writeReg r v).m0 = s.m0 := rfl
@[simp] theorem State.writeReg_display (s : State) (r : Reg) (v : Word) : (s.writeReg r v).display = s.display := rfl
@[simp] theorem State.writeReg_report (s : State) (r : Reg) (v : Word) : (s.writeReg r v).report = s.report := rfl
@[simp] theorem State.writeReg_schedule (s : State) (r : Reg) (v : Word) : (s.writeReg r v).schedule = s.schedule := rfl

/-! ### `State.emitDisplay` -/

@[simp] theorem State.emitDisplay_cfg (s : State) (e : DisplayEvent) : (s.emitDisplay e).cfg = s.cfg := rfl
@[simp] theorem State.emitDisplay_regs (s : State) (e : DisplayEvent) : (s.emitDisplay e).regs = s.regs := rfl
@[simp] theorem State.emitDisplay_flags (s : State) (e : DisplayEvent) : (s.emitDisplay e).flags = s.flags := rfl
@[simp] theorem State.emitDisplay_pc (s : State) (e : DisplayEvent) : (s.emitDisplay e).pc = s.pc := rfl
@[simp] theorem State.emitDisplay_sect (s : State) (e : DisplayEvent) : (s.emitDisplay e).sect = s.sect := rfl
@[simp] theorem State.emitDisplay_dataIndex (s : State) (e : DisplayEvent) : (s.emitDisplay e).dataIndex = s.dataIndex := rfl
@[simp] theorem State.emitDisplay_run (s : State) (e : DisplayEvent) : (s.emitDisplay e).run = s.run := rfl
@[simp] theorem State.emitDisplay_mem (s : State) (e : DisplayEvent) : (s.emitDisplay e).mem = s.mem := rfl
@[simp] theorem State.emitDisplay_m0 (s : State) (e : DisplayEvent) : (s.emitDisplay e).m0 = s.m0 := rfl
@[simp] theorem State.emitDisplay_display (s : State) (e : DisplayEvent) : (s.emitDisplay e).display = s.display ++ [e] := rfl
@[simp] theorem State.emitDisplay_report (s : State) (e : DisplayEvent) : (s.emitDisplay e).report = s.report := rfl
@[simp] theorem State.emitDisplay_schedule (s : State) (e : DisplayEvent) : (s.emitDisplay e).schedule = s.schedule := rfl

/-! ### `State.emitReport` -/

@[simp] theorem State.emitReport_cfg (s : State) (e : ReportEvent) : (s.emitReport e).cfg = s.cfg := rfl
@[simp] theorem State.emitReport_regs (s : State) (e : ReportEvent) : (s.emitReport e).regs = s.regs := rfl
@[simp] theorem State.emitReport_flags (s : State) (e : ReportEvent) : (s.emitReport e).flags = s.flags := rfl
@[simp] theorem State.emitReport_pc (s : State) (e : ReportEvent) : (s.emitReport e).pc = s.pc := rfl
@[simp] theorem State.emitReport_sect (s : State) (e : ReportEvent) : (s.emitReport e).sect = s.sect := rfl
@[simp] theorem State.emitReport_dataIndex (s : State) (e : ReportEvent) : (s.emitReport e).dataIndex = s.dataIndex := rfl
@[simp] theorem State.emitReport_run (s : State) (e : ReportEvent) : (s.emitReport e).run = s.run := rfl
@[simp] theorem State.emitReport_mem (s : State) (e : ReportEvent) : (s.emitReport e).mem = s.mem := rfl
@[simp] theorem State.emitReport_m0 (s : State) (e : ReportEvent) : (s.emitReport e).m0 = s.m0 := rfl
@[simp] theorem State.emitReport_display (s : State) (e : ReportEvent) : (s.emitReport e).display = s.display := rfl
@[simp] theorem State.emitReport_report (s : State) (e : ReportEvent) : (s.emitReport e).report = s.report ++ [e] := rfl
@[simp] theorem State.emitReport_schedule (s : State) (e : ReportEvent) : (s.emitReport e).schedule = s.schedule := rfl

/-! ### `halt` -/

@[simp] theorem halt_cfg (s : State) : (halt s).cfg = s.cfg := rfl
@[simp] theorem halt_regs (s : State) : (halt s).regs = s.regs := rfl
@[simp] theorem halt_flags (s : State) : (halt s).flags = s.flags := rfl
@[simp] theorem halt_pc (s : State) : (halt s).pc = s.pc := rfl
@[simp] theorem halt_sect (s : State) : (halt s).sect = s.sect := rfl
@[simp] theorem halt_dataIndex (s : State) : (halt s).dataIndex = s.dataIndex := rfl
@[simp] theorem halt_run (s : State) : (halt s).run = .halted := rfl
@[simp] theorem halt_mem (s : State) : (halt s).mem = s.mem := rfl
@[simp] theorem halt_m0 (s : State) : (halt s).m0 = s.m0 := rfl
@[simp] theorem halt_display (s : State) : (halt s).display = s.display := rfl
@[simp] theorem halt_report (s : State) : (halt s).report = s.report := rfl
@[simp] theorem halt_schedule (s : State) : (halt s).schedule = s.schedule := rfl

/-! ### `freshState` -/

@[simp] theorem freshState_cfg (s : State) (image : List Cell) (r : RunState) : (freshState image r s).cfg = s.cfg := rfl
@[simp] theorem freshState_regs (s : State) (image : List Cell) (r : RunState) : (freshState image r s).regs = RegFile.zero := rfl
@[simp] theorem freshState_flags (s : State) (image : List Cell) (r : RunState) : (freshState image r s).flags = Flags.zero := rfl
@[simp] theorem freshState_pc (s : State) (image : List Cell) (r : RunState) : (freshState image r s).pc = 0 := rfl
@[simp] theorem freshState_sect (s : State) (image : List Cell) (r : RunState) : (freshState image r s).sect = s.cfg.initialSection := rfl
@[simp] theorem freshState_dataIndex (s : State) (image : List Cell) (r : RunState) : (freshState image r s).dataIndex = 0 := rfl
@[simp] theorem freshState_run (s : State) (image : List Cell) (r : RunState) : (freshState image r s).run = r := rfl
@[simp] theorem freshState_mem (s : State) (image : List Cell) (r : RunState) : (freshState image r s).mem = Memory.ofImage (image.take s.cfg.memSize) 0 := rfl
@[simp] theorem freshState_m0 (s : State) (image : List Cell) (r : RunState) : (freshState image r s).m0 = s.m0 := rfl
@[simp] theorem freshState_display (s : State) (image : List Cell) (r : RunState) : (freshState image r s).display = s.display := rfl
@[simp] theorem freshState_report (s : State) (image : List Cell) (r : RunState) : (freshState image r s).report = s.report := rfl
@[simp] theorem freshState_schedule (s : State) (image : List Cell) (r : RunState) : (freshState image r s).schedule = s.schedule := rfl

/-! ### `State.setT` -/

@[simp] theorem State.setT_cfg (s : State) (b : Bool) : (s.setT b).cfg = s.cfg := rfl
@[simp] theorem State.setT_regs (s : State) (b : Bool) : (s.setT b).regs = s.regs := rfl
@[simp] theorem State.setT_flags (s : State) (b : Bool) : (s.setT b).flags = { s.flags with t := b } := rfl
@[simp] theorem State.setT_pc (s : State) (b : Bool) : (s.setT b).pc = s.pc := rfl
@[simp] theorem State.setT_sect (s : State) (b : Bool) : (s.setT b).sect = s.sect := rfl
@[simp] theorem State.setT_dataIndex (s : State) (b : Bool) : (s.setT b).dataIndex = s.dataIndex := rfl
@[simp] theorem State.setT_run (s : State) (b : Bool) : (s.setT b).run = s.run := rfl
@[simp] theorem State.setT_mem (s : State) (b : Bool) : (s.setT b).mem = s.mem := rfl
@[simp] theorem State.setT_m0 (s : State) (b : Bool) : (s.setT b).m0 = s.m0 := rfl
@[simp] theorem State.setT_display (s : State) (b : Bool) : (s.setT b).display = s.display := rfl
@[simp] theorem State.setT_report (s : State) (b : Bool) : (s.setT b).report = s.report := rfl
@[simp] theorem State.setT_schedule (s : State) (b : Bool) : (s.setT b).schedule = s.schedule := rfl

/-! ### `State.setR` -/

@[simp] theorem State.setR_cfg (s : State) : (s.setR).cfg = s.cfg := rfl
@[simp] theorem State.setR_regs (s : State) : (s.setR).regs = s.regs := rfl
@[simp] theorem State.setR_flags (s : State) : (s.setR).flags = { s.flags with r := true } := rfl
@[simp] theorem State.setR_pc (s : State) : (s.setR).pc = s.pc := rfl
@[simp] theorem State.setR_sect (s : State) : (s.setR).sect = s.sect := rfl
@[simp] theorem State.setR_dataIndex (s : State) : (s.setR).dataIndex = s.dataIndex := rfl
@[simp] theorem State.setR_run (s : State) : (s.setR).run = s.run := rfl
@[simp] theorem State.setR_mem (s : State) : (s.setR).mem = s.mem := rfl
@[simp] theorem State.setR_m0 (s : State) : (s.setR).m0 = s.m0 := rfl
@[simp] theorem State.setR_display (s : State) : (s.setR).display = s.display := rfl
@[simp] theorem State.setR_report (s : State) : (s.setR).report = s.report := rfl
@[simp] theorem State.setR_schedule (s : State) : (s.setR).schedule = s.schedule := rfl

end Sys2Proof.Machine
end

