-- ==== Sys2Proof/Laws/Decoding.lean ====
section
/-! SUPPORT. The small facts of the decoder: which row a cell is read as, how operand cells are read, and what the
fetch gives the decoder. -/

namespace Sys2Proof

theorem Opcode.mem_all (op : Opcode) : op ∈ Opcode.all := by cases op <;> decide

/-- The list of values in the configuration is the table's column of values. -/
theorem Config.codes_eq (cfg : Config) : cfg.codes = Opcode.all.map (Opcode.value cfg) := rfl

/-- A cell is read as a row whose value it is. -/
theorem decodeOpcode_value {cfg : Config} {c : Cell} {op : Opcode} (h : decodeOpcode cfg c = some op) :
    op.value cfg = c := by
  simpa using List.find?_some h

/-- A cell is read as no row exactly where it is no row's value. -/
theorem decodeOpcode_none {cfg : Config} {c : Cell} :
    decodeOpcode cfg c = none ↔ ∀ op : Opcode, op.value cfg ≠ c := by
  simp only [decodeOpcode, List.find?_eq_none, decide_eq_true_eq]
  exact ⟨fun h op => h op (Opcode.mem_all op), fun h op _ => h op⟩

theorem Config.wellFormed_iff (cfg : Config) :
    cfg.wellFormed = true ↔ cfg.sizeOk = true ∧ cfg.widthOk = true ∧ cfg.codesOk = true ∧ cfg.sourceOk = true := by
  simp [Config.wellFormed, and_assoc]

/-- The sizes a well-formed configuration allows. -/
theorem Config.size_bounds {cfg : Config} (h : cfg.wellFormed = true) :
    1 ≤ cfg.memSize ∧ cfg.memSize ≤ 2 ^ cfg.cellBits := by
  simpa [Config.sizeOk] using (cfg.wellFormed_iff.mp h).1

theorem Config.isCell_iff (cfg : Config) (c : Cell) : cfg.isCell c = true ↔ c.toNat < 2 ^ cfg.cellBits := by
  simp [Config.isCell]

/-- The widths a well-formed configuration allows: a cell fits a word, and the cell-valued parameters and the register
references fit a cell. -/
theorem Config.width_bounds {cfg : Config} (h : cfg.wellFormed = true) :
    cfg.cellBits ≤ 32 ∧ (∀ c ∈ cfg.cellValues, c.toNat < 2 ^ cfg.cellBits) ∧
      cfg.regBase + 13 ≤ 2 ^ cfg.cellBits := by
  have hw := (cfg.wellFormed_iff.mp h).2.1
  simp only [Config.widthOk, Bool.and_eq_true, decide_eq_true_eq, List.all_eq_true, Config.isCell_iff] at hw
  exact ⟨hw.1.1, hw.1.2, hw.2⟩

/-- A row's value fits a cell. -/
theorem Opcode.value_isCell {cfg : Config} (h : cfg.wellFormed = true) (op : Opcode) :
    cfg.isCell (op.value cfg) = true := by
  rw [Config.isCell_iff]
  refine (Config.width_bounds h).2.1 _ (List.mem_append_left _ ?_)
  rw [Config.codes_eq]
  exact List.mem_map_of_mem (Opcode.mem_all op)

/-- What `Load` asks of an image. -/
theorem Config.imageOk_iff (cfg : Config) (image : List Cell) :
    cfg.imageOk image = true ↔ image.length ≤ cfg.memSize ∧ ∀ c ∈ image, c.toNat < 2 ^ cfg.cellBits := by
  simp only [Config.imageOk, Bool.and_eq_true, decide_eq_true_eq, List.all_eq_true, Config.isCell_iff]

/-- The values the source fixes. -/
theorem Config.source_values {cfg : Config} (h : cfg.wellFormed = true) :
    cfg.opBrk = 0xCC#32 ∧ cfg.intLoc = 0xF000 ∧ cfg.com0 = 0xF001 ∧ cfg.varLoc = 0xFF00 ∧
      cfg.regBase = 0x10FF8 ∧ cfg.movMode8 = 0x07#32 ∧ cfg.sysRestart = 0#32 := by
  simpa [Config.sourceOk, and_assoc] using (cfg.wellFormed_iff.mp h).2.2.2

/-- Distinct rows have distinct values. -/
theorem Opcode.value_injective {cfg : Config} (h : cfg.wellFormed = true) {p q : Opcode}
    (e : p.value cfg = q.value cfg) : p = q := by
  have hn : cfg.codes.Nodup := by simpa [Config.codesOk] using (cfg.wellFormed_iff.mp h).2.2.1
  rw [Config.codes_eq] at hn
  exact List.inj_on_of_nodup_map hn (Opcode.mem_all p) (Opcode.mem_all q) e

/-- A row's value is read as that row. -/
theorem decodeOpcode_of_value {cfg : Config} (h : cfg.wellFormed = true) (op : Opcode) :
    decodeOpcode cfg (op.value cfg) = some op := by
  cases hd : decodeOpcode cfg (op.value cfg) with
  | none => exact absurd rfl (decodeOpcode_none.mp hd op)
  | some q => rw [Opcode.value_injective h (decodeOpcode_value hd)]

theorem Reg.code_lt (r : Reg) : r.code < Config.nregs := by cases r <;> decide

theorem Reg.ofCode_code (r : Reg) : Reg.ofCode r.code = some r := by cases r <;> rfl

/-- The register codes are exactly the numbers below 13. -/
theorem Reg.ofCode_some {n : Nat} {r : Reg} (h : Reg.ofCode n = some r) : n = r.code := by
  match n with
  | 0 | 1 | 2 | 3 | 4 | 5 | 6 | 7 | 8 | 9 | 10 | 11 | 12 => cases h; rfl
  | n + 13 => simp [Reg.ofCode, Reg.all] at h

theorem Reg.ofCode_none {n : Nat} : Reg.ofCode n = none ↔ Config.nregs ≤ n := by
  simp [Reg.ofCode, Reg.all, Config.nregs]

theorem Reg.code_injective {p q : Reg} (h : p.code = q.code) : p = q := by
  have := Reg.ofCode_code p
  rw [h, Reg.ofCode_code] at this
  exact (Option.some.inj this).symm

theorem Config.inWindow_iff (cfg : Config) (c : Cell) :
    cfg.inWindow c = true ↔ cfg.regBase ≤ c.toNat ∧ c.toNat < cfg.regBase + 13 := by
  rw [Config.inWindow, Bool.and_eq_true, decide_eq_true_eq, decide_eq_true_eq]
  exact Iff.rfl

end Sys2Proof

namespace Sys2Proof.Machine

/-- The fetch gives at most as many cells as asked for, each from its address, all below the end of memory. -/
theorem fetchFrom_spec (s : State) (a n : Nat) :
    (fetchFrom s a n).length = min n (s.cfg.memSize - a) ∧
      ∀ j, ∀ h : j < (fetchFrom s a n).length,
        a + j < s.cfg.memSize ∧ (fetchFrom s a n)[j] = Memory.read s.mem (a + j) := by
  induction n generalizing a with
  | zero => simp [fetchFrom]
  | succ n ih =>
    by_cases ha : a < s.cfg.memSize
    · have h := ih (a + 1)
      simp only [fetchFrom, ha, if_true]
      refine ⟨by simp only [List.length_cons, h.1]; omega, fun j hj => ?_⟩
      cases j with
      | zero => exact ⟨ha, rfl⟩
      | succ j =>
        have hj' : j < (fetchFrom s (a + 1) n).length := by simpa using hj
        have hk := h.2 j hj'
        refine ⟨by omega, ?_⟩
        simp only [List.getElem_cons_succ, hk.2]
        congr 1
        omega
    · simp only [fetchFrom, ha, if_false]
      exact ⟨by simp; omega, by simp⟩

/-- Where pc lies in memory, the cells fetched start with the cell at pc. -/
theorem fetchCells_head {s : State} (h : s.pc.toNat < s.cfg.memSize) :
    fetchCells s = cellAtPc s :: fetchFrom s (s.pc.toNat + 1) 3 := by
  simp [fetchCells, maxLength, fetchFrom, h, cellAtPc]

end Sys2Proof.Machine
end

