-- ==== Sys2Proof/Laws/Memory.lean ====
section
/-! SUPPORT. What a read gives after each memory operation, and that every memory operation keeps the canonical
form. -/

namespace Sys2Proof.Machine

/-! ### Reads -/

theorem Memory.read_erase (m : Memory) (a b : Nat) :
    Memory.read (Memory.erase m a) b = if b = a then 0 else Memory.read m b := by
  induction m with
  | nil => simp [Memory.erase, Memory.read]
  | cons p rest ih =>
    obtain ⟨k, v⟩ := p
    simp only [Memory.erase] at ih ⊢
    by_cases hk : k = a
    · subst hk
      by_cases hb : b = k <;> simp [Memory.read, hb] at ih ⊢ <;> exact ih
    · by_cases hb : b = k
      · subst hb
        simp [Memory.read, hk]
      · simpa [Memory.read, hk, hb] using ih

theorem Memory.read_insert (m : Memory) (a b : Nat) (v : Cell) (h : Memory.read m a = 0)
    (hfree : ∀ p ∈ m, p.1 ≠ a) :
    Memory.read (Memory.insert m a v) b = if b = a then v else Memory.read m b := by
  induction m with
  | nil => simp [Memory.insert, Memory.read]
  | cons p rest ih =>
    obtain ⟨k, w⟩ := p
    have hk : k ≠ a := hfree (k, w) (by simp)
    have hrest : ∀ p ∈ rest, p.1 ≠ a := fun p hp => hfree p (by simp [hp])
    have hread : Memory.read rest a = 0 := by simpa [Memory.read, hk.symm] using h
    by_cases hlt : a < k
    · simp [Memory.insert, hlt, Memory.read]
    · by_cases hb : b = k
      · subst hb
        simp [Memory.insert, hlt, Memory.read, hk]
      · simp [Memory.insert, hlt, Memory.read, hb, ih hread hrest]

theorem Memory.erase_free (m : Memory) (a : Nat) : ∀ p ∈ Memory.erase m a, p.1 ≠ a := by
  intro p hp
  simpa [Memory.erase] using (List.mem_filter.mp hp).2

/-- A read after a write gives the value written at its address and what was there before elsewhere. It holds of
every list of cells, canonical or not. -/
theorem Memory.read_write (m : Memory) (a b : Nat) (v : Cell) :
    Memory.read (Memory.write m a v) b = if b = a then v else Memory.read m b := by
  unfold Memory.write
  by_cases hv : v = 0
  · simp [hv, Memory.read_erase]
  · rw [if_neg hv, Memory.read_insert _ _ _ _ (by simp [Memory.read_erase]) (Memory.erase_free m a),
      Memory.read_erase]
    by_cases hb : b = a <;> simp [hb]

theorem Memory.read_clearRange (m : Memory) (base n b : Nat) :
    Memory.read (Memory.clearRange m base n) b = if base ≤ b ∧ b < base + n then 0 else Memory.read m b := by
  induction n with
  | zero => simp [Memory.clearRange, show ¬ (base ≤ b ∧ b < base) by omega]
  | succ n ih =>
    rw [Memory.clearRange, Memory.read_write, ih]
    by_cases hb : b = base + n
    · simp [hb]
    · by_cases hr : base ≤ b ∧ b < base + n
      · simp [hb, hr, show b < base + (n + 1) by omega]
      · simp [hb, hr, show ¬ (base ≤ b ∧ b < base + (n + 1)) by omega]

theorem Memory.read_ofImage (image : List Cell) (base b : Nat) :
    Memory.read (Memory.ofImage image base) b = if base ≤ b then (image[b - base]?).getD 0 else 0 := by
  induction image generalizing base with
  | nil => simp [Memory.ofImage, Memory.read]
  | cons c cs ih =>
    have step : (c :: cs)[b - base]? = if b = base then some c else if base ≤ b then cs[b - (base + 1)]? else some c := by
      by_cases hb : b = base
      · simp [hb]
      · by_cases hle : base ≤ b
        · obtain ⟨k, rfl⟩ : ∃ k, b = base + 1 + k := ⟨b - (base + 1), by omega⟩
          simp [show base + 1 + k - base = k + 1 by omega, show base ≤ base + 1 + k by omega,
            show base + 1 + k ≠ base by omega]
        · simp [hb, hle, show b - base = 0 by omega]
    rw [step]
    by_cases hc : c = 0
    · rw [Memory.ofImage, if_pos hc, ih]
      by_cases hb : b = base
      · simp [hb, hc]
      · by_cases hle : base ≤ b
        · simp [hb, hle, show base + 1 ≤ b by omega]
        · simp [hle, show ¬ base + 1 ≤ b by omega]
    · rw [Memory.ofImage, if_neg hc, Memory.read, ih]
      by_cases hb : b = base
      · simp [hb]
      · by_cases hle : base ≤ b
        · simp [hb, hle, show base + 1 ≤ b by omega]
        · simp [hb, hle, show ¬ base + 1 ≤ b by omega]

theorem Memory.readRange_length (m : Memory) (base n : Nat) : (Memory.readRange m base n).length = n := by
  simp [Memory.readRange]

theorem Memory.readRange_getElem (m : Memory) (base n i : Nat) (h : i < (Memory.readRange m base n).length) :
    (Memory.readRange m base n)[i] = Memory.read m (base + i) := by
  simp [Memory.readRange]

/-! ### The canonical form -/

/-- What the canonical form says. -/
theorem Memory.wf_iff (size bits : Nat) (m : Memory) :
    Memory.wf size bits m = true ↔
      (m.map Prod.fst).Pairwise (· < ·) ∧ ∀ p ∈ m, p.1 < size ∧ p.2 ≠ 0 ∧ p.2.toNat < 2 ^ bits := by
  simp [Memory.wf, and_assoc]

theorem Memory.wf_nil (size bits : Nat) : Memory.wf size bits [] = true := by simp [Memory.wf]

theorem Memory.wf_erase {size bits : Nat} {m : Memory} (a : Nat) (h : Memory.wf size bits m = true) :
    Memory.wf size bits (Memory.erase m a) = true := by
  rw [Memory.wf_iff] at h ⊢
  exact ⟨h.1.sublist (List.filter_sublist.map _), fun p hp => h.2 p (List.mem_filter.mp hp).1⟩

theorem Memory.mem_insert {m : Memory} {a : Nat} {v : Cell} {p : Nat × Cell}
    (h : p ∈ Memory.insert m a v) : p = (a, v) ∨ p ∈ m := by
  induction m with
  | nil => simpa [Memory.insert] using h
  | cons q rest ih =>
    obtain ⟨k, w⟩ := q
    by_cases hlt : a < k
    · simpa [Memory.insert, hlt] using h
    · simp only [Memory.insert, hlt, if_false, List.mem_cons] at h ⊢
      rcases h with h | h
      · exact .inr (.inl h)
      · exact (ih h).imp id .inr

theorem Memory.wf_insert {size bits : Nat} {m : Memory} {a : Nat} {v : Cell} (h : Memory.wf size bits m = true)
    (ha : a < size) (hv : v ≠ 0) (hw : v.toNat < 2 ^ bits) (hfree : ∀ p ∈ m, p.1 ≠ a) :
    Memory.wf size bits (Memory.insert m a v) = true := by
  induction m with
  | nil => simpa [Memory.wf, Memory.insert, ha, hw] using hv
  | cons q rest ih =>
    obtain ⟨k, w⟩ := q
    rw [Memory.wf_iff] at h
    have hk : k ≠ a := hfree (k, w) (by simp)
    have hsort := List.pairwise_cons.mp h.1
    by_cases hlt : a < k
    · rw [Memory.wf_iff]
      simp only [Memory.insert, hlt, if_true]
      refine ⟨List.pairwise_cons.mpr ⟨?_, h.1⟩, ?_⟩
      · intro b hb
        rcases List.mem_cons.mp hb with rfl | hb
        · exact hlt
        · exact lt_trans hlt (hsort.1 b hb)
      · intro p hp
        rcases List.mem_cons.mp hp with rfl | hp
        · exact ⟨ha, hv, hw⟩
        · exact h.2 p hp
    · have hrest : Memory.wf size bits rest = true :=
        (Memory.wf_iff size bits rest).mpr ⟨hsort.2, fun p hp => h.2 p (by simp [hp])⟩
      have hins := (Memory.wf_iff _ _ _).mp (ih hrest fun p hp => hfree p (by simp [hp]))
      rw [Memory.wf_iff]
      simp only [Memory.insert, hlt, if_false]
      refine ⟨List.pairwise_cons.mpr ⟨?_, hins.1⟩, ?_⟩
      · intro b hb
        obtain ⟨p, hp, rfl⟩ := List.mem_map.mp hb
        rcases Memory.mem_insert hp with rfl | hp
        · show k < a
          omega
        · exact hsort.1 _ (List.mem_map_of_mem hp)
      · intro p hp
        rcases List.mem_cons.mp hp with rfl | hp
        · exact h.2 _ (by simp)
        · exact hins.2 p hp

/-- A write of a cell to an address in memory keeps the canonical form. -/
theorem Memory.wf_write {size bits : Nat} {m : Memory} {a : Nat} (v : Cell) (h : Memory.wf size bits m = true)
    (ha : a < size) (hw : v.toNat < 2 ^ bits) : Memory.wf size bits (Memory.write m a v) = true := by
  unfold Memory.write
  by_cases hv : v = 0
  · rw [if_pos hv]
    exact Memory.wf_erase a h
  · rw [if_neg hv]
    exact Memory.wf_insert (Memory.wf_erase a h) ha hv hw (Memory.erase_free m a)

theorem Memory.wf_clearRange {size bits : Nat} {m : Memory} (base n : Nat) (h : Memory.wf size bits m = true)
    (hroom : n = 0 ∨ base + n ≤ size) : Memory.wf size bits (Memory.clearRange m base n) = true := by
  induction n with
  | zero => exact h
  | succ n ih => exact Memory.wf_write 0 (ih (by omega)) (by omega) (by simp)

theorem Memory.ofImage_bounds {image : List Cell} {base : Nat} {p : Nat × Cell}
    (h : p ∈ Memory.ofImage image base) : base ≤ p.1 ∧ p.1 < base + image.length ∧ p.2 ≠ 0 ∧ p.2 ∈ image := by
  induction image generalizing base with
  | nil => simp [Memory.ofImage] at h
  | cons c cs ih =>
    have hlen : (c :: cs).length = cs.length + 1 := rfl
    by_cases hc : c = 0
    · rw [Memory.ofImage, if_pos hc] at h
      have := ih h
      exact ⟨by omega, by omega, this.2.2.1, List.mem_cons_of_mem _ this.2.2.2⟩
    · rw [Memory.ofImage, if_neg hc] at h
      rcases List.mem_cons.mp h with rfl | h
      · exact ⟨le_refl _, by simp, hc, by simp⟩
      · have := ih h
        exact ⟨by omega, by omega, this.2.2.1, List.mem_cons_of_mem _ this.2.2.2⟩

/-- A memory made from an image of cells that fits is in canonical form. -/
theorem Memory.wf_ofImage {size bits : Nat} (image : List Cell) (base : Nat) (h : base + image.length ≤ size)
    (hw : ∀ c ∈ image, c.toNat < 2 ^ bits) :
    Memory.wf size bits (Memory.ofImage image base) = true := by
  rw [Memory.wf_iff]
  refine ⟨?_, fun p hp => ?_⟩
  · clear h hw
    induction image generalizing base with
    | nil => simp [Memory.ofImage]
    | cons c cs ih =>
      by_cases hc : c = 0
      · rw [Memory.ofImage, if_pos hc]
        exact ih _
      · rw [Memory.ofImage, if_neg hc]
        refine List.pairwise_cons.mpr ⟨fun b hb => ?_, ih _⟩
        obtain ⟨p, hp, rfl⟩ := List.mem_map.mp hb
        have := (Memory.ofImage_bounds hp).1
        show base < p.1
        omega
  · have := Memory.ofImage_bounds hp
    exact ⟨by omega, this.2.2.1, hw _ this.2.2.2⟩

/-- Every cell that memory in canonical form gives has at most `bits` bits, listed or not. -/
theorem Memory.read_lt {size bits : Nat} {m : Memory} (h : Memory.wf size bits m = true) (a : Nat) :
    (Memory.read m a).toNat < 2 ^ bits := by
  have hall := ((Memory.wf_iff size bits m).mp h).2
  clear h
  induction m with
  | nil => simp [Memory.read]
  | cons p rest ih =>
    rw [Memory.read]
    split
    · exact (hall p (by simp)).2.2
    · exact ih fun q hq => hall q (by simp [hq])

theorem Memory.wf_storeCells {size bits : Nat} {m : Memory} (a : Nat) (cells : List Cell)
    (h : Memory.wf size bits m = true) (hroom : a + cells.length ≤ size)
    (hw : ∀ c ∈ cells, c.toNat < 2 ^ bits) :
    Memory.wf size bits (storeCells m a cells) = true := by
  induction cells generalizing m a with
  | nil => exact h
  | cons c cs ih =>
    have hlen : (c :: cs).length = cs.length + 1 := rfl
    exact ih (a + 1) (Memory.wf_write c h (by omega) (hw c (by simp))) (by omega) fun d hd => hw d (by simp [hd])

theorem State.reset_memory_wf : Memory.wf State.reset.cfg.memSize State.reset.cfg.cellBits State.reset.mem = true :=
  Memory.wf_nil _ _

end Sys2Proof.Machine
end

