-- ==== Sys2Proof/Laws/Registers.lean ====
section
/-! SUPPORT. Reads and writes of the register file, and the operand operations that read it. -/

namespace Sys2Proof.Machine

theorem regWidth_le (r : Reg) : regWidth r ≤ 32 := by cases r <;> decide

/-- A read after a write: the value truncated to the register's width, and every other coded register as before. -/
theorem RegFile.read_write (f : RegFile) (r q : Reg) (v : Word) :
    (f.write r v).read q = if q = r then truncWord (regWidth r) v else f.read q := by
  cases r <;> cases q <;> simp [RegFile.write, RegFile.read, truncWord, regWidth]

theorem truncWord_toNat (w : Nat) (v : Word) : (truncWord w v).toNat = v.toNat % 2 ^ w := by
  have hlt : v.toNat % 2 ^ w < 2 ^ 32 := lt_of_le_of_lt (Nat.mod_le _ _) v.isLt
  simp only [truncWord, BitVec.toNat_setWidth]
  exact Nat.mod_eq_of_lt hlt

@[simp] theorem RegFile.write_edi (f : RegFile) (r : Reg) (v : Word) : (f.write r v).edi = f.edi := by cases r <;> rfl
@[simp] theorem RegFile.write_esi (f : RegFile) (r : Reg) (v : Word) : (f.write r v).esi = f.esi := by cases r <;> rfl
@[simp] theorem RegFile.write_esp (f : RegFile) (r : Reg) (v : Word) : (f.write r v).esp = f.esp := by cases r <;> rfl
@[simp] theorem RegFile.write_ebp (f : RegFile) (r : Reg) (v : Word) : (f.write r v).ebp = f.ebp := by cases r <;> rfl

@[simp] theorem RegFile.zero_read (r : Reg) : RegFile.zero.read r = 0 := by cases r <;> rfl

/-- A register read depends on the register file alone. -/
theorem State.readReg_congr {s t : State} (h : t.regs = s.regs) (r : Reg) : t.readReg r = s.readReg r := by
  simp [State.readReg, h]

/-- The registers after a register write. -/
theorem State.readReg_writeReg (s : State) (r q : Reg) (v : Word) :
    (s.writeReg r v).readReg q = if q = r then truncWord (regWidth r) v else s.readReg q := by
  simp [State.readReg, RegFile.read_write]

/-- A value operand depends on the register file alone. -/
theorem resolve_congr {s t : State} (h : t.regs = s.regs) (v : Value) : resolve v t = resolve v s := by
  cases v <;> simp [resolve, State.readReg, h]

/-! ### The conditions on RS and the test of `and` -/

theorem rsEquals_iff (v : Value) (s : State) : rsEquals v s = true ↔ s.readReg .rs = resolve v s := by
  simp [rsEquals]

theorem rsZero_iff (s : State) : rsZero s = true ↔ s.readReg .rs = 0 := by
  rw [rsZero, decide_eq_true_eq]

theorem positive_iff (v : Word) : positive v = true ↔ 0 < sint v := by
  rw [positive, decide_eq_true_eq]

/-! ### Frames of one register write -/

/-- A write to one register leaves every other register as it was. -/
theorem regsSameBut_writeReg (s t : State) (r : Reg) (v : Word) (h : t.regs = s.regs) :
    RegsSameBut [r] s (t.writeReg r v) := by
  refine ⟨fun q hq => ?_, ?_, ?_, ?_, ?_⟩
  · have hne : q ≠ r := fun e => hq (by simp [e])
    simp [State.readReg_writeReg, hne, State.readReg_congr h]
  all_goals simp [h]

/-- A state with the same register file has the same registers. -/
theorem regsSameBut_of_eq {s t : State} (changed : List Reg) (h : t.regs = s.regs) : RegsSameBut changed s t :=
  ⟨fun _ _ => State.readReg_congr h _, by rw [h], by rw [h], by rw [h], by rw [h]⟩

/-- A state with the same memory reads the same. -/
theorem memSame_of_eq {s t : State} (h : t.mem = s.mem) : MemSame s t := fun _ => by rw [h]

end Sys2Proof.Machine
end

