-- ==== Sys2Proof/Laws/Events.lean ====
section
/-! SUPPORT. What each shared operation over events, memory accesses and the data window can do, said once. -/

namespace Sys2Proof.Machine

/-! ### Events and memory accesses -/

/-- Taking an event changes the run state or the report port, and nothing else. -/
theorem takeEvent_cases (e : Event) (s : State) :
    (∃ c, e = .fault c ∧ takeEvent e s = s.withRun (.faulted c)) ∨
    (∃ c r, e = .suspend c r ∧ takeEvent e s = s.withRun (.awaitAck c r)) ∨
    (∃ r, e = .report r ∧ takeEvent e s = s.withReport (s.report ++ [r])) := by
  cases e with
  | fault c => exact .inl ⟨c, rfl, rfl⟩
  | suspend c r => exact .inr (.inl ⟨c, r, rfl, rfl⟩)
  | report r => exact .inr (.inr ⟨r, rfl, rfl⟩)

@[simp] theorem takeEvent_fault (c : FaultCause) (s : State) : takeEvent (.fault c) s = s.withRun (.faulted c) := rfl
@[simp] theorem takeEvent_suspend (c : AckCause) (r : Resume) (s : State) :
    takeEvent (.suspend c r) s = s.withRun (.awaitAck c r) := rfl
@[simp] theorem takeEvent_report (r : ReportEvent) (s : State) : takeEvent (.report r) s = s.emitReport r := rfl

/-- The return from a suspension: only from AwaitAck, and only the run state changes. -/
theorem endSuspension_some {s t : State} {r : Resume} (h : endSuspension s = some (r, t)) :
    (∃ c, s.run = .awaitAck c r) ∧ t = s.withRun .running := by
  unfold endSuspension at h
  split at h <;> simp_all

/-- The cell a write stores: the value modulo `2^CELL_BITS`, which is the value itself if it is a cell. -/
theorem State.trimCell_toNat (s : State) (v : Cell) : (s.trimCell v).toNat = v.toNat % 2 ^ s.cfg.cellBits :=
  truncWord_toNat _ v

theorem State.trimCell_of_lt {s : State} {v : Cell} (h : v.toNat < 2 ^ s.cfg.cellBits) : s.trimCell v = v := by
  apply BitVec.eq_of_toNat_eq
  rw [State.trimCell_toNat, Nat.mod_eq_of_lt h]

theorem State.trimCell_congr {s t : State} (h : t.cfg = s.cfg) (v : Cell) : t.trimCell v = s.trimCell v := by
  simp [State.trimCell, h]

/-- A memory write either stores one cell, at an address in memory, or faults with no effect. -/
theorem memWrite_cases (s : State) (a : Nat) (v : Cell) :
    (a < s.cfg.memSize ∧ s.memWrite a v = .ok (s.withMem (Memory.write s.mem a (s.trimCell v)))) ∨
    (s.cfg.memSize ≤ a ∧ s.memWrite a v = .error .outOfMemory) := by
  by_cases h : a < s.cfg.memSize
  · exact .inl ⟨h, by simp [State.memWrite, h]⟩
  · exact .inr ⟨by omega, by simp [State.memWrite, h]⟩

/-- A memory read either gives the cell, at an address in memory, or faults. -/
theorem memRead_cases (s : State) (a : Nat) :
    (a < s.cfg.memSize ∧ s.memRead a = .ok (Memory.read s.mem a)) ∨
    (s.cfg.memSize ≤ a ∧ s.memRead a = .error .outOfMemory) := by
  by_cases h : a < s.cfg.memSize
  · exact .inl ⟨h, by simp [State.memRead, h]⟩
  · exact .inr ⟨by omega, by simp [State.memRead, h]⟩

theorem cellsExist_iff (s : State) (base n : Nat) :
    s.cellsExist base n = true ↔ n = 0 ∨ base + n ≤ s.cfg.memSize := by
  simp [State.cellsExist]

/-! ### The data window -/

/-- An unrecognized cell is passed over, and reported unless its address is suppressed. -/
theorem unrecognized_cases (c : Cell) (s : State) :
    (s.suppressed s.pc = true ∧ unrecognized c s = s.advance 1) ∨
    (s.suppressed s.pc = false ∧
      unrecognized c s = (s.advance 1).emitReport (.invalidOpcode c s.pc)) := by
  cases h : s.suppressed s.pc
  · exact .inr ⟨rfl, by simp [unrecognized, h]⟩
  · exact .inl ⟨rfl, by simp [unrecognized, h]⟩

/-- A data cell is passed over; a cell that is not 0 is stored at the end of the populated window, or faults. -/
theorem dataCell_cases (c : Cell) (s : State) :
    (c = 0 ∧ dataCell c s = s.advance 1) ∨
    (c ≠ 0 ∧ s.cfg.varLoc + s.dataIndex.toNat < s.cfg.memSize ∧
      dataCell c s = ((s.advance 1).withMem (Memory.write s.mem (s.cfg.varLoc + s.dataIndex.toNat)
        (s.trimCell c))).withDataIndex
        (s.dataIndex + 1)) ∨
    (c ≠ 0 ∧ s.cfg.memSize ≤ s.cfg.varLoc + s.dataIndex.toNat ∧
      dataCell c s = (s.advance 1).withRun (.faulted .outOfMemory)) := by
  by_cases hc : c = 0
  · exact .inl ⟨hc, by simp [dataCell, hc]⟩
  · rcases memWrite_cases (s.advance 1) (s.cfg.varLoc + s.dataIndex.toNat) c with ⟨ha, hw⟩ | ⟨ha, hw⟩
    · exact .inr (.inl ⟨hc, ha, by rw [dataCell, if_neg hc, hw]; rfl⟩)
    · exact .inr (.inr ⟨hc, ha, by rw [dataCell, if_neg hc, hw]; rfl⟩)

/-- `uld` clears the populated window where it lies in memory, and faults where it does not. -/
theorem execUld_cases (s : State) :
    (s.cellsExist s.cfg.varLoc s.dataIndex.toNat = true ∧
      execUld s = .next (((s.advance 1).withMem
        (Memory.clearRange s.mem s.cfg.varLoc s.dataIndex.toNat)).withDataIndex 0)) ∨
    (s.cellsExist s.cfg.varLoc s.dataIndex.toNat = false ∧
      execUld s = .next (((s.advance 1).withMem (Memory.clearRange s.mem s.cfg.varLoc
        (min s.dataIndex.toNat (s.cfg.memSize - s.cfg.varLoc)))).withRun (.faulted .outOfMemory))) := by
  cases h : s.cellsExist s.cfg.varLoc s.dataIndex.toNat
  · exact .inr ⟨rfl, by simp [execUld, h]⟩
  · exact .inl ⟨rfl, by simp [execUld, h]⟩

/-! ### Jumps, counting and moves -/

/-- A jump changes pc alone. -/
theorem jumpIf_eq (taken : Bool) (a : Cell) (n : Nat) (s : State) :
    jumpIf taken a n s = s.withPc (if taken then target a else s.pc + BitVec.ofNat 33 n) := by
  cases taken <;> rfl

/-- inc and dec write one countable register, or none. -/
theorem countBy_cases (d : Int) (reg : Dest) (s : State) :
    (∃ r, designated reg = some r ∧ countable r = true ∧
      countBy d reg s = (s.advance 2).writeReg r (wrap ((s.readReg r).toNat + d))) ∨
    ((∀ r, designated reg = some r → countable r = false) ∧ countBy d reg s = s.advance 2) := by
  cases h : designated reg with
  | none => exact .inr ⟨by simp, by simp [countBy, h]⟩
  | some r =>
    cases hc : countable r
    · exact .inr ⟨by simp [hc], by simp [countBy, h, hc]⟩
    · exact .inl ⟨r, rfl, hc, by simp [countBy, h, hc]⟩

/-- mov writes one register, or none. -/
theorem execMov_cases (m : Mode) (d : Dest) (v : Value) (s : State) :
    (∃ w r, modeWidth m = some w ∧ designated d = some r ∧
      execMov m d v s = .next ((s.advance 4).writeReg r (truncWord w (resolve v s)))) ∨
    ((modeWidth m = none ∨ designated d = none) ∧ execMov m d v s = .next (s.advance 4)) := by
  cases hm : modeWidth m <;> cases hd : designated d
  · exact .inr ⟨.inl rfl, by simp [execMov, hm, hd]⟩
  · exact .inr ⟨.inl rfl, by simp [execMov, hm, hd]⟩
  · exact .inr ⟨.inr rfl, by simp [execMov, hm, hd]⟩
  · exact .inl ⟨_, _, rfl, rfl, by simp [execMov, hm, hd]⟩

/-! ### The syscall dispatcher and int -/

/-- Writing text emits one event, or faults with none emitted. -/
theorem writeText_cases (s : State) :
    (s.cellsExist s.cfg.varLoc (s.readReg .ecx).toNat = true ∧
      writeText s = s.emitDisplay (.drawText (Memory.readRange s.mem s.cfg.varLoc (s.readReg .ecx).toNat))) ∨
    (s.cellsExist s.cfg.varLoc (s.readReg .ecx).toNat = false ∧
      writeText s = s.withRun (.faulted .outOfMemory)) := by
  cases h : s.cellsExist s.cfg.varLoc (s.readReg .ecx).toNat
  · exact .inr ⟨rfl, by simp [writeText, h]⟩
  · exact .inl ⟨rfl, by simp [writeText, h]⟩

/-- A syscall restarts, emits one display event, faults on a text past memory, or does nothing. -/
theorem syscall_cases (s : State) :
    syscall s = restartSyscall s ∨ (∃ e, syscall s = s.emitDisplay e) ∨
    syscall s = s.withRun (.faulted .outOfMemory) ∨ syscall s = s := by
  unfold syscall
  split
  · exact .inl rfl
  · split
    · split
      · rcases writeText_cases s with ⟨_, h⟩ | ⟨_, h⟩
        · exact .inr (.inl ⟨_, h⟩)
        · exact .inr (.inr (.inl h))
      · split
        · exact .inr (.inl ⟨_, rfl⟩)
        · split
          · exact .inr (.inl ⟨_, rfl⟩)
          · split
            · exact .inr (.inl ⟨_, rfl⟩)
            · exact .inr (.inr (.inr rfl))
    · exact .inr (.inr (.inr rfl))

/-- A dispatched code is a syscall, a suspension, a terminal fault or a report. -/
theorem intDispatch_cases (c : Cell) (a : Addr) (s : State) :
    intDispatch c a s = syscall s ∨ (∃ k, intDispatch c a s = s.withRun (.awaitAck k .nextIteration)) ∨
    (∃ k, intDispatch c a s = s.withRun (.faulted k)) ∨
    intDispatch c a s = s.emitReport (.interrupt c a) := by
  unfold intDispatch
  split
  · exact .inl rfl
  · split
    · exact .inr (.inl ⟨_, rfl⟩)
    · split
      · exact .inr (.inl ⟨_, rfl⟩)
      · split
        · exact .inr (.inr (.inl ⟨_, rfl⟩))
        · split
          · exact .inr (.inr (.inl ⟨_, rfl⟩))
          · exact .inr (.inr (.inr rfl))

/-- int stores its code and dispatches it, or faults where the interrupt cell does not exist. -/
theorem execInt_cases (c : Cell) (s : State) :
    (s.cfg.intLoc < s.cfg.memSize ∧
      execInt c s = .next (intDispatch c s.pc ((s.advance 2).withMem (Memory.write s.mem s.cfg.intLoc (s.trimCell c))))) ∨
    (s.cfg.memSize ≤ s.cfg.intLoc ∧ execInt c s = .next ((s.advance 2).withRun (.faulted .outOfMemory))) := by
  rcases memWrite_cases (s.advance 2) s.cfg.intLoc c with ⟨ha, hw⟩ | ⟨ha, hw⟩
  · exact .inl ⟨ha, by rw [execInt, hw]; rfl⟩
  · exact .inr ⟨ha, by simp [execInt, hw]⟩

end Sys2Proof.Machine
end

