-- ==== Sys2Proof/Laws/PerInstr.lean ====
section
/-! SUPPORT. A statement about every instruction, made per constructor: the shape of its encoding
(30_encoding.md R90, R91). -/

namespace Sys2Proof.Laws

/-- An instruction is its row's opcode cell followed by exactly the row's number of operand cells. -/
def EncodingShape.Statement (i : Instr) : Prop :=
  ∀ cfg : Config, (encode cfg i).length = i.length ∧ (encode cfg i).head? = some (i.opcode.value cfg)

theorem EncodingShape.nop : EncodingShape.Statement (.nop) := fun _ => ⟨rfl, rfl⟩
theorem EncodingShape.hlt : EncodingShape.Statement (.hlt) := fun _ => ⟨rfl, rfl⟩
theorem EncodingShape.mov (m : Mode) (d : Dest) (v : Value) : EncodingShape.Statement (.mov m d v) :=
  fun _ => ⟨rfl, rfl⟩
theorem EncodingShape.int (c : Cell) : EncodingShape.Statement (.int c) := fun _ => ⟨rfl, rfl⟩
theorem EncodingShape.jmp (a : Cell) : EncodingShape.Statement (.jmp a) := fun _ => ⟨rfl, rfl⟩
theorem EncodingShape.add (v w : Value) : EncodingShape.Statement (.add v w) := fun _ => ⟨rfl, rfl⟩
theorem EncodingShape.sub (v w : Value) : EncodingShape.Statement (.sub v w) := fun _ => ⟨rfl, rfl⟩
theorem EncodingShape.mul (v w : Value) : EncodingShape.Statement (.mul v w) := fun _ => ⟨rfl, rfl⟩
theorem EncodingShape.div (v w : Value) : EncodingShape.Statement (.div v w) := fun _ => ⟨rfl, rfl⟩
theorem EncodingShape.inc (d : Dest) : EncodingShape.Statement (.inc d) := fun _ => ⟨rfl, rfl⟩
theorem EncodingShape.dec (d : Dest) : EncodingShape.Statement (.dec d) := fun _ => ⟨rfl, rfl⟩
theorem EncodingShape.je (v : Value) (a : Cell) : EncodingShape.Statement (.je v a) := fun _ => ⟨rfl, rfl⟩
theorem EncodingShape.jne (v : Value) (a : Cell) : EncodingShape.Statement (.jne v a) := fun _ => ⟨rfl, rfl⟩
theorem EncodingShape.jz (a : Cell) : EncodingShape.Statement (.jz a) := fun _ => ⟨rfl, rfl⟩
theorem EncodingShape.jnz (a : Cell) : EncodingShape.Statement (.jnz a) := fun _ => ⟨rfl, rfl⟩
theorem EncodingShape.and (v w : Value) : EncodingShape.Statement (.and v w) := fun _ => ⟨rfl, rfl⟩
theorem EncodingShape.uld : EncodingShape.Statement (.uld) := fun _ => ⟨rfl, rfl⟩
theorem EncodingShape.brk : EncodingShape.Statement (.brk) := fun _ => ⟨rfl, rfl⟩
theorem EncodingShape.secData : EncodingShape.Statement (.secData) := fun _ => ⟨rfl, rfl⟩
theorem EncodingShape.secText : EncodingShape.Statement (.secText) := fun _ => ⟨rfl, rfl⟩
theorem EncodingShape.secRom : EncodingShape.Statement (.secRom) := fun _ => ⟨rfl, rfl⟩

end Sys2Proof.Laws
end

