-- ==== Sys2Proof/Tests/Slice0.lean ====
section
/-! SUPPORT. Tests: ill-formed terms refused, every row's decoding from a written-out word, the vectors of
95_test_vectors.md (named W, B, M, N, J, A, U, Y, X there), and states that meet the hypotheses of each statement. -/

namespace Sys2Proof.Tests

open Sys2Proof.Machine

/-! ### Well-formedness -/

theorem test_default_is_wellformed : Config.default.wellFormed = true := by decide
theorem test_wf_memory_of_no_cells : ({ Config.default with memSize := 0 } : Config).wellFormed = false := by decide
theorem test_wf_memory_too_large :
    ({ Config.default with memSize := 2 ^ 21 + 1 } : Config).wellFormed = false := by decide
theorem test_wf_cells_too_wide : ({ Config.default with cellBits := 33 } : Config).wellFormed = false := by decide
theorem test_wf_cells_too_narrow :
    ({ Config.default with cellBits := 16, memSize := 4 } : Config).wellFormed = false := by decide
theorem test_wf_code_is_no_cell : ({ Config.default with movMode16 := 0x200000#32 } : Config).wellFormed = false := by
  decide
/-- The narrowest and the widest cells that an instance can have, and the derived width of pc. -/
theorem test_wf_other_widths : ({ Config.default with cellBits := 17 } : Config).wellFormed = true
    ∧ ({ Config.default with cellBits := 32 } : Config).wellFormed = true ∧ Config.default.pcBits = 22 := by decide
theorem test_wf_two_opcodes_alike : ({ Config.default with opAdd := 0x06#32 } : Config).wellFormed = false := by decide
theorem test_wf_opcode_like_sentinel :
    ({ Config.default with opAdd := 0xFD#32 } : Config).wellFormed = false := by decide
theorem test_wf_breakpoint_moved : ({ Config.default with opBrk := 0xCD#32 } : Config).wellFormed = false := by decide
theorem test_wf_window_moved : ({ Config.default with regBase := 0x10000 } : Config).wellFormed = false := by decide
theorem test_wf_literal_in_window : (Instr.add (.lit 0x10FF8#32) (.lit 1#32)).wellFormed Config.default = false := by
  decide
theorem test_wf_second_literal_in_window :
    (Instr.sub (.lit 1#32) (.lit 0x11004#32)).wellFormed Config.default = false := by decide
theorem test_wf_literal_is_no_cell : (Instr.add (.lit 0x200000#32) (.lit 1#32)).wellFormed Config.default = false := by
  decide
theorem test_wf_designator_is_no_cell : (Instr.inc (.noReg 0x200000#32)).wellFormed Config.default = false := by decide
theorem test_wf_mode_is_no_cell :
    (Instr.mov (.other 0x200000#32) (.code .eax) (.lit 1#32)).wellFormed Config.default = false := by decide
theorem test_wf_raw_operand_is_no_cell :
    [Instr.int 0x200000#32, .jmp 0x200000#32, .jz 0x200000#32, .jnz 0x200000#32, .je (.lit 0#32) 0x200000#32,
      .jne (.lit 0#32) 0x200000#32].all (fun i => !i.wellFormed Config.default) = true := by decide
theorem test_wf_code_is_a_register : (Instr.inc (.noReg 12#32)).wellFormed Config.default = false := by decide
theorem test_wf_window_is_a_register : (Instr.dec (.noReg 0x10FFA#32)).wellFormed Config.default = false := by decide
theorem test_wf_other_mode_is_mode8 :
    (Instr.mov (.other 7#32) (.code .eax) (.lit 1#32)).wellFormed Config.default = false := by decide
theorem test_wf_other_mode_is_mode16 :
    (Instr.mov (.other 8#32) (.code .eax) (.lit 1#32)).wellFormed Config.default = false := by decide
theorem test_wf_mode16_has_no_cell :
    (Instr.mov .mode16 (.code .eax) (.lit 1#32)).wellFormed { Config.default with movMode16 := 7#32 } = false := by
  decide
theorem test_wf_image_too_long :
    ({ Config.default with memSize := 2 } : Config).imageOk [1#32, 2#32, 3#32] = false := by decide

theorem test_wf_image_element_is_no_cell : Config.default.imageOk [0x1FFFFF#32, 0x200000#32] = false := by decide

/-! ### Decoding, from the values of 30_encoding.md R92, R93 and 10_state.md R21 -/

theorem test_decode_nop : decode Config.default [0x00#32] = .ok .nop := by decide
theorem test_decode_hlt : decode Config.default [0x01#32] = .ok .hlt := by decide
theorem test_decode_mov :
    decode Config.default [0x02#32, 0x08#32, 0x11004#32, 0x10FF9#32] = .ok (.mov .mode16 (.window .rs) (.reg .ebx)) := by
  decide
theorem test_decode_int : decode Config.default [0x03#32, 0x10FF8#32] = .ok (.int 0x10FF8#32) := by decide
theorem test_decode_jmp : decode Config.default [0x04#32, 0x1FFFFF#32] = .ok (.jmp 0x1FFFFF#32) := by decide
theorem test_decode_add :
    decode Config.default [0x05#32, 0x05#32, 0x03#32] = .ok (.add (.lit 5#32) (.lit 3#32)) := by decide
theorem test_decode_sub :
    decode Config.default [0x06#32, 0x10FFC#32, 0x11005#32] = .ok (.sub (.reg .ax) (.lit 0x11005#32)) := by decide
theorem test_decode_mul :
    decode Config.default [0x07#32, 0x10FF7#32, 0x10FF8#32] = .ok (.mul (.lit 0x10FF7#32) (.reg .eax)) := by decide
theorem test_decode_div :
    decode Config.default [0x08#32, 0x11004#32, 0x11003#32] = .ok (.div (.reg .rs) (.reg .bdx)) := by decide
theorem test_decode_inc : decode Config.default [0x09#32, 0x00#32] = .ok (.inc (.code .eax)) := by decide
theorem test_decode_dec : decode Config.default [0x0A#32, 0x10FFE#32] = .ok (.dec (.window .cx)) := by decide
theorem test_decode_je :
    decode Config.default [0x0B#32, 0x08#32, 0x14#32] = .ok (.je (.lit 8#32) 0x14#32) := by decide
theorem test_decode_jne :
    decode Config.default [0x0C#32, 0x11004#32, 0x11004#32] = .ok (.jne (.reg .rs) 0x11004#32) := by decide
theorem test_decode_jz : decode Config.default [0x0D#32, 0x20#32] = .ok (.jz 0x20#32) := by decide
theorem test_decode_jnz : decode Config.default [0x0E#32, 0x05#32] = .ok (.jnz 0x05#32) := by decide
theorem test_decode_and :
    decode Config.default [0x0F#32, 0x11000#32, 0x01#32] = .ok (.and (.reg .bax) (.lit 1#32)) := by decide
theorem test_decode_uld : decode Config.default [0x10#32] = .ok .uld := by decide
theorem test_decode_brk : decode Config.default [0xCC#32] = .ok .brk := by decide
theorem test_decode_data : decode Config.default [0xFD#32] = .ok .secData := by decide
theorem test_decode_rom : decode Config.default [0xFE#32] = .ok .secRom := by decide
theorem test_decode_text : decode Config.default [0xFF#32] = .ok .secText := by decide
theorem test_decode_unknown : decode Config.default [0x42#32, 0#32] = .error (.unrecognized 0x42#32) := by decide
theorem test_decode_needs_all_21_bits :
    decode Config.default [0x100002#32] = .error (.unrecognized 0x100002#32) := by decide
theorem test_decode_missing_operand : decode Config.default [0x02#32, 7#32, 1#32] = .error (.truncated .mov) := by
  decide
theorem test_decode_no_cell : decode Config.default [] = .error .noCell := by decide
/-- `add 5 3` as one number: 0x05 in bits 20..0, 5 in bits 41..21, 3 in bits 62..42. -/
theorem test_table_word : decodeTableWord 64 (0x05 + 5 * 2 ^ 21 + 3 * 2 ^ 42) = some (.add (.lit 5#32) (.lit 3#32)) := by
  decide
theorem test_table_word_zero_operands :
    decodeTableWord 24 0x02 = some (.mov (.other 0#32) (.code .eax) (.lit 0#32)) := by decide
theorem test_every_row_has_its_own_value :
    Opcode.all.all (fun op => decodeOpcode Config.default (op.value Config.default) == some op) = true := by decide

/-! ### One step on a small state -/

/-- The start state of a vector: reset but for Running, at a = 0x64. -/
def at64 : State := { State.reset with pc := 0x64#33, run := .running }

/-- A state with one coded register set. -/
def setReg (r : Reg) (v : Word) (s : State) : State := s.writeReg r v

/-- A state with one cell set. -/
def setMem (a : Nat) (c : Cell) (s : State) : State := s.withMem (Memory.write s.mem a c)

/-- One step from a state with cells stored at its pc; the section and the flags are kept. -/
def oneStep (s : State) (cells : List Cell) : Option State :=
  match step (s.withMem (storeCells s.mem s.pc.toNat cells)) with
  | .next t => some t
  | .fault _ => none
  | .refused _ => none

/-- A register, and pc, after one step. -/
def regAfter (s : State) (cells : List Cell) (r : Reg) : Option (Word × Addr) :=
  (oneStep s cells).map fun t => (t.readReg r, t.pc)

/-- The run state, and pc, after one step. -/
def runAfter (s : State) (cells : List Cell) : Option (RunState × Addr) :=
  (oneStep s cells).map fun t => (t.run, t.pc)

/-- Vector B1. -/
theorem test_nop : runAfter at64 [0x00#32] = some (.running, 0x65#33) := by decide
/-- Vector B2. -/
theorem test_hlt : runAfter at64 [0x01#32] = some (.halted, 0x65#33) := by decide
/-- Vector B3. -/
theorem test_brk : runAfter at64 [0xCC#32] = some (.awaitAck .breakpoint .nextIteration, 0x65#33) := by decide
/-- Vector M7. -/
theorem test_mov_mode16 :
    regAfter (setReg .eax 0x12345678#32 at64) [0x02#32, 0x08#32, 0x10FFA#32, 0x10FF8#32] .ecx
      = some (0x5678#32, 0x68#33) := by decide
/-- Vector M4: the destination's width. -/
theorem test_mov_to_byte :
    regAfter at64 [0x02#32, 0x08#32, 0x08#32, 0x1234#32] .bax = some (0x34#32, 0x68#33) := by decide
/-- Vector N6. -/
theorem test_int_pixel :
    (oneStep (setReg .ecx 5#32 (setReg .bx 0x14#32 (setReg .ax 0x0A#32 (setReg .ebx 3#32 (setReg .eax 1#32 at64)))))
      [0x03#32, 0x80#32]).map (fun t => (t.display, Memory.read t.mem 0xF000))
      = some ([.plotPixel 0x0A#16 0x14#16 5#4], 0x80#32) := by decide
/-- Vector N18: the code is not resolved. -/
theorem test_int_code_is_raw :
    (oneStep (setReg .eax 1#32 at64) [0x03#32, 0x10FF8#32]).map (fun t => (t.report, Memory.read t.mem 0xF000))
      = some ([.interrupt 0x10FF8#32 0x64#33], 0x10FF8#32) := by decide
/-- Vector J3. -/
theorem test_jmp : runAfter at64 [0x04#32, 0x10000#32] = some (.running, 0x10000#33) := by decide
/-- Vector J4: the compare value is resolved. -/
theorem test_je_resolves :
    runAfter (setReg .eax 5#32 (setReg .rs 5#32 at64)) [0x0B#32, 0x10FF8#32, 0x20#32] = some (.running, 0x20#33) := by
  decide
/-- Vector W4, je with RS = 7. -/
theorem test_je_fails : runAfter (setReg .rs 7#32 at64) [0x0B#32, 8#32, 0x14#32] = some (.running, 0x67#33) := by decide
/-- Vector W4, jne with RS = 7. -/
theorem test_jne : runAfter (setReg .rs 7#32 at64) [0x0C#32, 8#32, 0x14#32] = some (.running, 0x14#33) := by decide
/-- Vector J6. -/
theorem test_jne_never :
    runAfter (setReg .rs 5#32 at64) [0x0C#32, 0x11004#32, 0x20#32] = some (.running, 0x67#33) := by decide
/-- Vector W4, jz with RS = 0 and with RS = 1. -/
theorem test_jz : runAfter at64 [0x0D#32, 0x20#32] = some (.running, 0x20#33) := by decide
theorem test_jz_fails : runAfter (setReg .rs 1#32 at64) [0x0D#32, 0x20#32] = some (.running, 0x66#33) := by decide
/-- Vector J7, and W4 with RS = 0. -/
theorem test_jnz : runAfter (setReg .rs 0xFFFFFFFF#32 at64) [0x0E#32, 0x30#32] = some (.running, 0x30#33) := by decide
theorem test_jnz_fails : runAfter at64 [0x0E#32, 0x05#32] = some (.running, 0x66#33) := by decide
/-- Vector A2. -/
theorem test_add_wraps :
    regAfter (setReg .rs 0xFFFFFFFF#32 at64) [0x05#32, 0x11004#32, 1#32] .rs = some (0#32, 0x67#33) := by decide
/-- Vector A4. -/
theorem test_add_zero_extends :
    regAfter (setReg .ax 0xFFFF#32 at64) [0x05#32, 0x10FFC#32, 1#32] .rs = some (0x10000#32, 0x67#33) := by decide
/-- Vector A6. -/
theorem test_sub_wraps : regAfter at64 [0x06#32, 3#32, 5#32] .rs = some (0xFFFFFFFE#32, 0x67#33) := by decide
/-- Vector A10. -/
theorem test_mul_wraps :
    regAfter at64 [0x07#32, 0x1FFFFF#32, 0x1FFFFF#32] .rs = some (0xFFC00001#32, 0x67#33) := by decide
/-- Vector A14: 7 by -2. -/
theorem test_div_truncates :
    regAfter (setReg .rs 0xFFFFFFFE#32 at64) [0x08#32, 7#32, 0x11004#32] .rs = some (0xFFFFFFFD#32, 0x67#33) := by decide
/-- Vector A16. -/
theorem test_div_wraps :
    regAfter (setReg .eax 0xFFFFFFFF#32 (setReg .rs 0x80000000#32 at64)) [0x08#32, 0x11004#32, 0x10FF8#32] .rs
      = some (0x80000000#32, 0x67#33) := by decide
/-- Vector A31. -/
theorem test_dec_wraps : regAfter at64 [0x0A#32, 1#32] .ebx = some (0xFFFFFFFF#32, 0x66#33) := by decide
/-- Vector A32. -/
theorem test_dec_leaves_cx :
    regAfter (setReg .cx 3#32 at64) [0x0A#32, 0x10FFE#32] .cx = some (3#32, 0x66#33) := by decide
/-- Vector A25. -/
theorem test_inc : regAfter (setReg .eax 4#32 at64) [0x09#32, 0x10FF8#32] .eax = some (5#32, 0x66#33) := by decide
/-- Vector A28. -/
theorem test_inc_leaves_ax :
    regAfter (setReg .ax 7#32 at64) [0x09#32, 0x10FFC#32] .ax = some (7#32, 0x66#33) := by decide
/-- Vector A22: not 6 AND 3 = 2. -/
theorem test_and_is_not_bitwise : regAfter at64 [0x0F#32, 6#32, 3#32] .rs = some (1#32, 0x67#33) := by decide
/-- Vector A21. -/
theorem test_and_negative :
    regAfter (setReg .rs 0xFFFFFFFF#32 at64) [0x0F#32, 0x11004#32, 1#32] .rs = some (0#32, 0x67#33) := by decide

/-- Two cells in the window, and a third beyond the populated part (vector U1). -/
def twoInWindow : State :=
  (setMem 0xFF02 7#32 (setMem 0xFF01 0x69#32 (setMem 0xFF00 0x48#32 at64))).withDataIndex 2

/-- Vector U1. -/
theorem test_uld :
    (oneStep twoInWindow [0x10#32]).map (fun t => (Memory.readRange t.mem 0xFF00 3, t.dataIndex))
      = some ([0#32, 0#32, 7#32], 0#33) := by decide
/-- Vectors Y3 and Y4. -/
theorem test_sec_data : (oneStep at64 [0xFD#32]).map (fun t => (t.sect, t.pc)) = some (.data, 0x65#33) := by decide
theorem test_sec_text :
    (oneStep (at64.withSect .data) [0xFF#32]).map (fun t => (t.sect, t.pc)) = some (.text, 0x65#33) := by decide
/-- Vectors Y11 and Y8. -/
theorem test_sec_rom_in_text :
    (oneStep at64 [0xFE#32]).map (·.report) = some [.invalidOpcode 0xFE#32 0x64#33] := by decide
theorem test_sec_rom_in_data :
    (oneStep (at64.withSect .data) [0xFE#32]).map (fun t => (Memory.read t.mem 0xFF00, t.dataIndex))
      = some (0xFE#32, 1#33) := by decide
/-- Vector Y7: an opcode in the data section is data. -/
theorem test_opcode_in_data :
    (oneStep ((at64.withSect .data).withDataIndex 3) [0x02#32]).map (fun t => (Memory.read t.mem 0xFF03, t.dataIndex))
      = some (2#32, 4#33) := by decide
/-- Vector Y13. -/
theorem test_suppressed_in_window :
    (oneStep (twoInWindow.withPc 0xFF01#33) [0x42#32]).map (fun t => (t.report, t.pc)) = some ([], 0xFF02#33) := by
  decide
/-- Vector Y2. -/
theorem test_exhaustion_before_trap :
    runAfter (((at64.withPc 0x10000#33)).setT true) [] = some (.halted, 0x10000#33) := by decide
/-- Vectors X6 and X7. -/
theorem test_flags_byte : flagsByte { Flags.zero with t := true, r := true } = 4#8 := by decide
/-- Vector X1, and X2. -/
theorem test_load :
    (oneStep ((at64.withRun .halted).withSchedule [.host (.load [0xFF#32, 1#32])]) []).map
      (fun t => (t.mem, t.m0, t.pc, t.run)) = some ([(0, 0xFF#32), (1, 1#32)], [0xFF#32, 1#32], 0#33, .idle) := by
  decide
theorem test_load_refused :
    (oneStep (at64.withSchedule [.host (.load [1#32])]) []).map (fun t => (t.mem, t.pc, t.run))
      = some ([], 0x64#33, .running) := by decide
/-- 00_scope.md section 6: a stored value is reduced to `CELL_BITS` bits. -/
theorem test_write_trims : (at64.memWrite 5 0x200007#32).toOption.map (·.mem) = some [(5, 7#32)] := by decide
/-- On a machine of 32-bit cells a literal reaches 0xFFFFFFFF (20_memory.md R61, 45_alu.md R231). -/
theorem test_add_on_wide_cells :
    regAfter { at64 with cfg := { Config.default with cellBits := 32 } } [0x05#32, 0xFFFFFFFF#32, 1#32] .rs
      = some (0#32, 0x67#33) := by decide
/-- The host's word runs from reset. -/
theorem test_withFetchWord :
    step (State.reset.withFetchWord 64 (0x05 + 5 * 2 ^ 21 + 3 * 2 ^ 42))
      = exec (.add (.lit 5#32) (.lit 3#32)) (State.reset.withFetchWord 64 (0x05 + 5 * 2 ^ 21 + 3 * 2 ^ 42)) := by rfl
theorem test_core : core.reset = State.reset := by rfl

/-! ### Hypotheses that a state meets: one theorem or more for each statement that has any -/

/-- With cells at pc, the state of a vector. -/
def withCells (cells : List Cell) : State := at64.withMem (storeCells at64.mem 0x64 cells)

theorem ready_withCells (cells : List Cell) : EngineReady (withCells cells) :=
  ⟨rfl, rfl, by show 0x64 < 65536; decide, rfl, rfl⟩

theorem witness_EncodeThenDecode : Config.default.wellFormed = true
    ∧ (Instr.mov .mode16 (.window .rs) (.lit 0x10FF7#32)).wellFormed Config.default = true
    ∧ (Instr.mov (.other 9#32) (.noReg 0x0D#32) (.lit 0x11005#32)).wellFormed Config.default = true := by decide

theorem witness_DecodeThenEncode : (∀ c ∈ [0x0A#32, 0x0D#32, 0x1FFFFF#32], Config.default.isCell c = true) ∧
    decode Config.default [0x0A#32, 0x0D#32, 0x1FFFFF#32] = .ok (.dec (.noReg 0x0D#32)) :=
  ⟨List.all_eq_true.mp (by decide), by decide⟩

/-- Both sides, at the ends of the three ranges. -/
theorem witness_UnassignedCellsAreUnrecognized :
    [0x11#32, 0xCB#32, 0xCD#32, 0xFC#32, 0x100#32, 0x1FFFFF#32].all
        (fun c => decide (decode Config.default [c] = .error (.unrecognized c))) = true
      ∧ [0x00#32, 0x10#32, 0xCC#32, 0xFD#32, 0xFE#32, 0xFF#32].all
        (fun c => decide (decode Config.default [c] ≠ .error (.unrecognized c))) = true := by decide

theorem witness_OpcodeCellFixesLength : decodeOpcode Config.default 0x02#32 = some .mov
    ∧ [0#32, 0#32].length < Opcode.mov.operands ∧ Opcode.mov.operands ≤ [0#32, 0#32, 0#32].length := by decide

theorem witness_ValueCellResolves :
    (0x10FF8#32).toNat = at64.cfg.regBase + Reg.eax.code ∧ (0x11004#32).toNat = at64.cfg.regBase + Reg.rs.code
      ∧ (∀ r : Reg, (0x10FF7#32).toNat ≠ at64.cfg.regBase + r.code)
      ∧ (∀ r : Reg, (0x11005#32).toNat ≠ at64.cfg.regBase + r.code) :=
  ⟨by decide, by decide, fun r => by cases r <;> decide, fun r => by cases r <;> decide⟩

theorem witness_DesignatorCellSelects : Config.default.wellFormed = true
    ∧ (0#32).toNat = Reg.eax.code ∧ (12#32).toNat = Reg.rs.code
    ∧ (0x10FF8#32).toNat = Config.default.regBase + Reg.eax.code
    ∧ (0x11004#32).toNat = Config.default.regBase + Reg.rs.code
    ∧ (∀ r : Reg, (13#32).toNat ≠ r.code ∧ (13#32).toNat ≠ Config.default.regBase + r.code)
    ∧ (∀ r : Reg, (0x11005#32).toNat ≠ r.code ∧ (0x11005#32).toNat ≠ Config.default.regBase + r.code) :=
  ⟨by decide, by decide, by decide, by decide, by decide, fun r => by cases r <;> decide,
    fun r => by cases r <;> decide⟩

theorem witness_NopOnlyMovesPc : (withCells [0#32]).cfg = Config.default ∧ EngineReady (withCells [0#32])
    ∧ (withCells [0#32]).sect = .text ∧ cellAtPc (withCells [0#32]) = 0 :=
  ⟨rfl, ready_withCells _, rfl, by decide⟩

theorem witness_HltHalts : exec .hlt at64 = .next (halt (at64.advance 1)) ∧ (halt (at64.advance 1)).schedule = [] :=
  ⟨rfl, rfl⟩

/-- A register by its code and by its window, under each mode. -/
theorem witness_MovWritesLimitedValue : designated (.code .bdx) = some .bdx ∧ designated (.window .rs) = some .rs
    ∧ (7#32 : Cell) = at64.cfg.movMode8 ∧ (8#32 : Cell) ≠ at64.cfg.movMode8 ∧ (8#32 : Cell) = at64.cfg.movMode16
    ∧ ((9#32 : Cell) ≠ at64.cfg.movMode8 ∧ (9#32 : Cell) ≠ at64.cfg.movMode16)
    ∧ designated (.noReg 13#32) = none := by decide

/-- A machine whose memory ends n cells after the opcode cell at 0x64. -/
def cutOff (op : Opcode) (n : Nat) : State :=
  { at64 with cfg := { Config.default with memSize := 0x64 + n }, mem := [(0x64, op.value Config.default)] }

/-- With no operand cell, or with all but the last: jumps, arithmetic, mov and int alike (vectors M13, J9). -/
theorem witness_MissingOperandsFault :
    ∀ op ∈ Opcode.all, ∀ n ∈ [1, op.operands], 0 < op.operands →
      (cutOff op n).cfg.wellFormed = true ∧ EngineReady (cutOff op n) ∧ (cutOff op n).sect = .text
        ∧ cellAtPc (cutOff op n) = op.value (cutOff op n).cfg
        ∧ (cutOff op n).cfg.memSize < (cutOff op n).pc.toNat + 1 + op.operands := by
  intro op _ n hn h0
  have hn : n = 1 ∨ n = op.operands := by simpa using hn
  have h3 : op.operands ≤ 3 := by cases op <;> decide
  refine ⟨?_, ⟨rfl, rfl, by show 0x64 < 0x64 + n; omega, rfl, rfl⟩, rfl, by cases op <;> rfl, ?_⟩
  · have hc : n = 1 ∨ n = 2 ∨ n = 3 := by omega
    rcases hc with rfl | rfl | rfl
    · show ({ Config.default with memSize := 0x64 + 1 } : Config).wellFormed = true
      decide
    · show ({ Config.default with memSize := 0x64 + 2 } : Config).wellFormed = true
      decide
    · show ({ Config.default with memSize := 0x64 + 3 } : Config).wellFormed = true
      decide
  · show 0x64 + n < 0x64 + 1 + op.operands
    omega

theorem witness_JeAndJneCompareRs : at64.readReg .rs = resolve (.lit 0#32) at64
    ∧ (setReg .rs 5#32 at64).readReg .rs = resolve (.reg .rs) (setReg .rs 5#32 at64)
    ∧ at64.readReg .rs ≠ resolve (.lit 1#32) at64 := by decide

theorem witness_JzAndJnzTestRs : at64.readReg .rs = 0 ∧ (setReg .rs 0xFFFFFFFF#32 at64).readReg .rs ≠ 0 := by decide

/-- The least and the greatest divisor that is not 0, and the dividend of the wrapping case. -/
theorem witness_DivTruncatesTowardZero :
    resolve (.lit 1#32) at64 ≠ 0
      ∧ resolve (.reg .eax) (setReg .eax 0xFFFFFFFF#32 (setReg .rs 0x80000000#32 at64)) = 0xFFFFFFFF#32
      ∧ resolve (.reg .rs) (setReg .eax 0xFFFFFFFF#32 (setReg .rs 0x80000000#32 at64)) = 0x80000000#32 := by decide

theorem witness_DivByZeroFaults : resolve (.lit 0#32) at64 = 0 ∧ resolve (.reg .bax) at64 = 0 := by decide

theorem witness_IncAndDecCount :
    (designated (.window .rs) = some .rs ∧ Reg.rs ∈ [Reg.eax, .ebx, .ecx, .edx, .rs])
      ∧ (∀ r, designated (.noReg 13#32) = some r → r ∉ [Reg.eax, .ebx, .ecx, .edx, .rs])
      ∧ ∀ r, designated (.code .bdx) = some r → r ∉ [Reg.eax, .ebx, .ecx, .edx, .rs] := by
  refine ⟨by decide, fun r h => ?_, fun r h => ?_⟩
  · cases h
  · cases h
    decide

theorem witness_AndTestsPositivity : (0 < (resolve (.lit 1#32) at64).toInt ∧ 0 < (resolve (.lit 5#32) at64).toInt)
    ∧ (resolve (.lit 0#32) at64).toInt ≤ 0
    ∧ (resolve (.reg .eax) (setReg .eax 0x80000000#32 at64)).toInt ≤ 0 := by decide

/-- An empty window, two cells of it, and all of it. -/
theorem witness_UldClearsPopulatedWindow : at64.dataIndex.toNat = 0
    ∧ twoInWindow.cfg.varLoc + twoInWindow.dataIndex.toNat ≤ twoInWindow.cfg.memSize
    ∧ (at64.withDataIndex 0x100).cfg.varLoc + (at64.withDataIndex 0x100).dataIndex.toNat = at64.cfg.memSize
    ∧ 1 < twoInWindow.dataIndex.toNat := by decide

theorem witness_SentinelsSwitchSection : EngineReady (withCells [0xFD#32])
    ∧ cellAtPc (withCells [0xFD#32]) = (withCells [0xFD#32]).cfg.secData
    ∧ EngineReady (withCells [0xFF#32]) ∧ cellAtPc (withCells [0xFF#32]) = (withCells [0xFF#32]).cfg.secText
    ∧ (withCells [0xFF#32]).cfg.secText ≠ (withCells [0xFF#32]).cfg.secData :=
  ⟨ready_withCells _, by decide, ready_withCells _, by decide, by decide⟩

theorem witness_RomIsNoSentinel : at64.sect = .text ∧ (at64.withSect .data).sect = .data := by decide

theorem witness_IntReportsOtherCodes : at64.cfg.intLoc < at64.cfg.memSize
    ∧ ([0#32, 3#32, 6#32, 0x7F#32, 0x81#32, 0x1FFFFF#32] : List Cell).all (fun c =>
      decide (c ≠ at64.cfg.syscallCode ∧ c ≠ at64.cfg.intSingleStep ∧ c ≠ at64.cfg.intBreakpoint
        ∧ c ≠ at64.cfg.intDoubleFault ∧ c ≠ at64.cfg.intOutOfMemory)) = true := by decide

theorem witness_IntSuspends : at64.cfg.intLoc < at64.cfg.memSize
    ∧ ((1#32 : Cell) ≠ at64.cfg.syscallCode ∧ (1#32 : Cell) = at64.cfg.intSingleStep)
    ∧ ((2#32 : Cell) ≠ at64.cfg.syscallCode ∧ (2#32 : Cell) ≠ at64.cfg.intSingleStep
      ∧ (2#32 : Cell) = at64.cfg.intBreakpoint) := by decide

theorem witness_IntRaisesTerminalFaults : at64.cfg.intLoc < at64.cfg.memSize
    ∧ ([4#32, 5#32] : List Cell).all (fun c => decide (c ≠ at64.cfg.syscallCode ∧ c ≠ at64.cfg.intSingleStep
      ∧ c ≠ at64.cfg.intBreakpoint)) = true
    ∧ (4#32 : Cell) = at64.cfg.intDoubleFault
    ∧ ((5#32 : Cell) ≠ at64.cfg.intDoubleFault ∧ (5#32 : Cell) = at64.cfg.intOutOfMemory) := by decide

/-- Memory that ends just before the interrupt cell (vector N19), and just after it. -/
theorem witness_IntWithoutCellFaults :
    ({ at64 with cfg := { Config.default with memSize := 0xF000 } } : State).cfg.memSize
        ≤ ({ at64 with cfg := { Config.default with memSize := 0xF000 } } : State).cfg.intLoc
      ∧ ({ at64 with cfg := { Config.default with memSize := 0xF001 } } : State).cfg.intLoc
        < ({ at64 with cfg := { Config.default with memSize := 0xF001 } } : State).cfg.memSize := by decide

theorem witness_RestartSyscallReloads : at64.cfg.intLoc < at64.cfg.memSize
    ∧ at64.readReg .eax = at64.cfg.sysRestart := by decide

/-- A state about to make a Write syscall with a subcode and a length or colour. -/
def writing (sub ecx : Word) : State := setReg .ecx ecx (setReg .ebx sub (setReg .eax 1#32 at64))

/-- Lengths 0 and 0x100 lie in memory, 0x101 does not (vectors N2, N3, N4). -/
theorem witness_WriteTextSyscall : (writing 1 0).cfg.intLoc < (writing 1 0).cfg.memSize
    ∧ (writing 1 0).readReg .eax = (writing 1 0).cfg.sysWrite
    ∧ (writing 1 0).cfg.sysWrite ≠ (writing 1 0).cfg.sysRestart ∧ (writing 1 0).readReg .ebx = 1
    ∧ ((writing 1 0).readReg .ecx).toNat = 0
    ∧ (writing 1 0x100).cfg.varLoc + ((writing 1 0x100).readReg .ecx).toNat ≤ (writing 1 0x100).cfg.memSize
    ∧ (((writing 1 0x101).readReg .ecx).toNat ≠ 0
      ∧ (writing 1 0x101).cfg.memSize < (writing 1 0x101).cfg.varLoc + ((writing 1 0x101).readReg .ecx).toNat) := by
  decide

theorem witness_DrawingSyscalls : (writing 2 0x13).cfg.intLoc < (writing 2 0x13).cfg.memSize
    ∧ (writing 2 0x13).readReg .eax = (writing 2 0x13).cfg.sysWrite
    ∧ (writing 2 0x13).cfg.sysWrite ≠ (writing 2 0x13).cfg.sysRestart
    ∧ (writing 2 0x13).readReg .ebx = 2 ∧ (writing 3 5).readReg .ebx = 3 ∧ (writing 4 2).readReg .ebx = 4 := by decide

/-- Another subcode, just below and just above the four, and another number (vectors N8, N9). -/
theorem witness_OtherSyscallsDoNothing :
    [writing 0 0, writing 5 0, setReg .eax 7#32 (writing 1 0)].all (fun s =>
      decide (s.cfg.intLoc < s.cfg.memSize ∧ s.readReg .eax ≠ s.cfg.sysRestart
        ∧ ¬ (s.readReg .eax = s.cfg.sysWrite ∧ s.readReg .ebx ∈ [(1 : Word), 2, 3, 4]))) = true := by decide

theorem witness_StepRunsDecodedInstruction :
    (EngineReady (withCells [0x0D#32, 0x20#32])
      ∧ decode (withCells [0x0D#32, 0x20#32]).cfg (fetchCells (withCells [0x0D#32, 0x20#32])) = .ok (.jz 0x20#32)
      ∧ RunsInSection (.jz 0x20#32) (withCells [0x0D#32, 0x20#32]))
    ∧ ((withCells [0x10#32]).withSchedule [.engine]).schedule = .engine :: []
    ∧ EngineReady (((withCells [0x10#32]).withSchedule [.engine]).withSchedule [])
    ∧ decode ((withCells [0x10#32]).withSchedule [.engine]).cfg
        (fetchCells ((withCells [0x10#32]).withSchedule [.engine])) = .ok .uld
    ∧ RunsInSection .uld ((withCells [0x10#32]).withSchedule [.engine]) :=
  ⟨⟨ready_withCells _, by decide, .inl rfl⟩, rfl, ready_withCells [0x10#32], by decide, .inl rfl⟩

/-- A two-cell instruction in the last two cells of memory. -/
def atEnd : State := (at64.withPc 0xFFFE#33).withMem [(0xFFFE, 0x0D#32), (0xFFFF, 0x20#32)]

theorem witness_StepRunsInstructionInMemory : atEnd.cfg.wellFormed = true
    ∧ (Instr.jz 0x20#32).wellFormed atEnd.cfg = true ∧ EngineReady atEnd ∧ RunsInSection (.jz 0x20#32) atEnd
    ∧ HoldsFrom atEnd atEnd.pc.toNat (encode atEnd.cfg (.jz 0x20#32)) := by
  refine ⟨by decide, by decide, ⟨rfl, rfl, by decide, rfl, rfl⟩, .inl rfl, fun j h => ?_⟩
  have h2 : j < 2 := h
  have hj : j = 0 ∨ j = 1 := by omega
  rcases hj with rfl | rfl
  · exact ⟨by decide, rfl⟩
  · exact ⟨by decide, rfl⟩

theorem witness_PcExhaustionHalts : (at64.withPc 0x10000#33).schedule = [] ∧ (at64.withPc 0x10000#33).run = .running
    ∧ (at64.withPc 0x10000#33).cfg.memSize ≤ (at64.withPc 0x10000#33).pc.toNat := by decide

theorem witness_TrapFlagSuspendsBeforeFetch : ((at64.withPc 0xFFFF#33).setT true).schedule = []
    ∧ ((at64.withPc 0xFFFF#33).setT true).run = .running
    ∧ ((at64.withPc 0xFFFF#33).setT true).pc.toNat < ((at64.withPc 0xFFFF#33).setT true).cfg.memSize
    ∧ ((at64.withPc 0xFFFF#33).setT true).flags.t = true := by decide

theorem witness_RestartFlagRestarts : at64.setR.schedule = [] ∧ at64.setR.run = .running
    ∧ at64.setR.pc.toNat < at64.setR.cfg.memSize ∧ at64.setR.flags.t = false ∧ at64.setR.flags.r = true := by decide

/-- A cell in the data section, with the window empty and with the window full. -/
def inData (c : Cell) (index : Addr) : State := ((withCells [c]).withSect .data).withDataIndex index

theorem witness_DataSectionCopiesCells :
    ∀ c ∈ [0#32, 2#32, 0xFE#32], ∀ index ∈ [0#33, 0xFF#33, 0x100#33],
      EngineReady (inData c index) ∧ (inData c index).sect = .data
        ∧ cellAtPc (inData c index) ≠ (inData c index).cfg.secData
        ∧ cellAtPc (inData c index) ≠ (inData c index).cfg.secText := by
  intro c hc index _
  refine ⟨⟨rfl, rfl, by show 0x64 < 65536; decide, rfl, rfl⟩, rfl, ?_⟩
  have hc : c = 0#32 ∨ c = 2#32 ∨ c = 0xFE#32 := by simpa using hc
  rcases hc with rfl | rfl | rfl
  · show cellAtPc (withCells [0#32]) ≠ 0xFD#32 ∧ cellAtPc (withCells [0#32]) ≠ 0xFF#32
    decide
  · show cellAtPc (withCells [2#32]) ≠ 0xFD#32 ∧ cellAtPc (withCells [2#32]) ≠ 0xFF#32
    decide
  · show cellAtPc (withCells [0xFE#32]) ≠ 0xFD#32 ∧ cellAtPc (withCells [0xFE#32]) ≠ 0xFF#32
    decide

theorem witness_UnrecognizedCellsReported : EngineReady (withCells [0x42#32]) ∧ (withCells [0x42#32]).sect = .text
    ∧ ∀ op : Opcode, op.value (withCells [0x42#32]).cfg ≠ cellAtPc (withCells [0x42#32]) :=
  ⟨ready_withCells _, rfl, fun op => by cases op <;> decide⟩

/-- An unrecognized cell at an address, with two cells in the window. -/
def unknownAt (a : Addr) : State := (twoInWindow.withPc a).withMem (Memory.write twoInWindow.mem a.toNat 0x42#32)

/-- In the interrupt cell, at both ends of the populated window, and next to each of them (vectors Y12 to Y14). -/
theorem witness_UnrecognizedCellsReported_suppression :
    [0xEFFF#33, 0xF000#33, 0xF001#33, 0xFEFF#33, 0xFF00#33, 0xFF01#33, 0xFF02#33].all (fun a =>
      decide (cellAtPc (unknownAt a) = 0x42#32 ∧ (unknownAt a).pc.toNat < (unknownAt a).cfg.memSize
        ∧ (unknownAt a).schedule = [] ∧ (unknownAt a).run = .running ∧ (unknownAt a).flags.t = false
        ∧ (unknownAt a).flags.r = false ∧ (unknownAt a).sect = .text)) = true := by decide

/-- A sentinel in the data section runs as an instruction. -/
theorem witness_SentinelsRunInData : EngineReady (inData 0xFF#32 0) ∧ RunsInSection .secText (inData 0xFF#32 0)
    ∧ decode (inData 0xFF#32 0).cfg (fetchCells (inData 0xFF#32 0)) = .ok .secText ∧ (inData 0xFF#32 0).sect = .data :=
  ⟨⟨rfl, rfl, by decide, rfl, rfl⟩, .inr (.inr rfl), by decide, rfl⟩

/-- A state suspended by a cause, with the host's Ack as the next turn. -/
def acked (cause : AckCause) (resume : Resume) (cells : List Cell) : State :=
  ((withCells cells).withRun (.awaitAck cause resume)).withSchedule [.host .ack]

theorem witness_AckResumes :
    ((acked .breakpoint .nextIteration []).schedule = [.host .ack]
      ∧ (acked .breakpoint .nextIteration []).run = .awaitAck .breakpoint .nextIteration)
    ∧ ((acked .singleStep .afterTrapCheck [1#32]).schedule = [.host .ack]
      ∧ (acked .singleStep .afterTrapCheck [1#32]).run = .awaitAck .singleStep .afterTrapCheck
      ∧ (acked .singleStep .afterTrapCheck [1#32]).flags.r = false
      ∧ decode (acked .singleStep .afterTrapCheck [1#32]).cfg
          (fetchCells (acked .singleStep .afterTrapCheck [1#32])) = .ok .hlt
      ∧ (acked .singleStep .afterTrapCheck [1#32]).sect = .text)
    ∧ ((acked .singleStep .afterTrapCheck []).setR.schedule = [.host .ack]
      ∧ (acked .singleStep .afterTrapCheck []).setR.run = .awaitAck .singleStep .afterTrapCheck
      ∧ (acked .singleStep .afterTrapCheck []).setR.flags.r = true) := by decide

/-- The rest of `Continue()` after an Ack: in data an opcode and a zero cell, in text an unrecognized cell, and an
instruction whose operand cell is missing. -/
theorem witness_AckResumes_continue :
    [0x02#32, 0x00#32].all (fun c => decide (
      ((acked .singleStep .afterTrapCheck [c]).withSect .data).run = .awaitAck .singleStep .afterTrapCheck
      ∧ (acked .singleStep .afterTrapCheck [c]).pc.toNat < (acked .singleStep .afterTrapCheck [c]).cfg.memSize
      ∧ cellAtPc ((acked .singleStep .afterTrapCheck [c]).withSect .data) ≠ Config.default.secData
      ∧ cellAtPc ((acked .singleStep .afterTrapCheck [c]).withSect .data) ≠ Config.default.secText)) = true
    ∧ (∀ op : Opcode, op.value (acked .singleStep .afterTrapCheck [0x42#32]).cfg
        ≠ cellAtPc (acked .singleStep .afterTrapCheck [0x42#32]))
    ∧ ((atEnd.withPc 0xFFFF#33).withMem [(0xFFFF, 0x04#32)]).cfg.wellFormed = true
    ∧ cellAtPc ((atEnd.withPc 0xFFFF#33).withMem [(0xFFFF, 0x04#32)]) = Opcode.jmp.value atEnd.cfg
    ∧ atEnd.cfg.memSize < (atEnd.withPc 0xFFFF#33).pc.toNat + 1 + Opcode.jmp.operands :=
  ⟨by decide, fun op => by cases op <;> decide, by decide, by decide, by decide⟩

theorem witness_EngineStandsStillUnlessRunning : (at64.withRun .halted).run ≠ .running
    ∧ (at64.withRun .halted).schedule = []
    ∧ ((at64.withRun .idle).withSchedule [.engine]).run ≠ .running
    ∧ ((at64.withRun .idle).withSchedule [.engine]).schedule = [.engine] := by decide

/-- An image of no cells and one that fills a memory of two cells. -/
def loading (image : List Cell) (run : RunState) : State :=
  { (at64.withRun run).withSchedule [.host (.load image)] with cfg := { Config.default with memSize := 2 } }

theorem witness_LoadInstallsImage :
    ((loading [] .idle).schedule = [.host (.load [])] ∧ LoadAllowed [] (loading [] .idle))
    ∧ ((loading [1#32, 0x1FFFFF#32] (.faulted .outOfMemory)).schedule = [.host (.load [1#32, 0x1FFFFF#32])]
      ∧ LoadAllowed [1#32, 0x1FFFFF#32] (loading [1#32, 0x1FFFFF#32] (.faulted .outOfMemory)))
    ∧ LoadAllowed [1#32] (loading [1#32] .halted) :=
  ⟨⟨rfl, .inl rfl, (Config.imageOk_iff _ _).mp (by decide)⟩,
    ⟨rfl, .inr (.inr ⟨_, rfl⟩), (Config.imageOk_iff _ _).mp (by decide)⟩,
    .inr (.inl rfl), (Config.imageOk_iff _ _).mp (by decide)⟩

theorem witness_RefusedHostOperationsChangeNothing :
    ((loading [] .running).schedule = [.host (.load [])] ∧ (loading [] .running).run = .running)
    ∧ ((loading [1#32, 2#32, 3#32] .idle).schedule = [.host (.load [1#32, 2#32, 3#32])]
      ∧ (loading [1#32, 2#32, 3#32] .idle).cfg.memSize < [1#32, 2#32, 3#32].length)
    ∧ ((loading [0x200000#32] .halted).schedule = [.host (.load [0x200000#32])]
      ∧ ∃ c ∈ [0x200000#32], 2 ^ (loading [0x200000#32] .halted).cfg.cellBits ≤ c.toNat)
    ∧ ((at64.withSchedule [.host .start]).schedule = [.host .start] ∧ (at64.withSchedule [.host .start]).run ≠ .idle)
    ∧ ((at64.withSchedule [.host .ack]).schedule = [.host .ack]
      ∧ ∀ c r, (at64.withSchedule [.host .ack]).run ≠ .awaitAck c r) :=
  ⟨by decide, by decide, ⟨rfl, 0x200000#32, by simp, by decide⟩, by decide, rfl, fun _ _ h => by cases h⟩

theorem witness_HostOperationsChangeOnlyTheirOwn :
    (((at64.withRun .idle).withSchedule [.host .start]).schedule = [.host .start]
      ∧ ((at64.withRun .idle).withSchedule [.host .start]).run = .idle)
    ∧ (at64.withSchedule [.host (.setTrap true)]).schedule = [.host (.setTrap true)]
    ∧ (at64.withSchedule [.host .requestRestart]).schedule = [.host .requestRestart]
    ∧ (at64.withSchedule [.host .readState]).schedule = [.host .readState]
    ∧ (at64.withSchedule [.host .readPorts]).schedule = [.host .readPorts] := by decide

/-- A state that no reset leaves: data in the window, and the step that copies one more cell. -/
theorem witness_StepKeepsInvariant : Inv (inData 2#32 0)
    ∧ step (inData 2#32 0) = .next ((((inData 2#32 0).advance 1).withMem
        [(0x64, 2#32), (0xFF00, 2#32)]).withDataIndex 1) :=
  ⟨{ config := by decide, memory := by decide, image := by decide, pcBound := by decide, window := .inl rfl,
     suspended := fun _ h => (by cases h), flags := by decide }, by rfl⟩

/-- For the statements whose one hypothesis is that an instruction answers a next state: the Restart syscall, which writes
flags, registers and memory (`FlagsByteIsOnlyAView`, `OnlyRestartWritesFlags`, `RegisterWriters`, `MemoryWriters`,
`OnlyLoadWritesImage`). -/
theorem witness_exec_answers : IsRestart (.int 0x80#32) twoInWindow
    ∧ exec (.int 0x80#32) twoInWindow = .next (restartSyscall ((twoInWindow.advance 2).withMem
        (Memory.write twoInWindow.mem 0xF000 0x80#32)))
    ∧ ¬ IsRestart .nop twoInWindow ∧ exec .nop twoInWindow = .next (twoInWindow.advance 1) :=
  ⟨⟨rfl, by decide⟩, by rfl, fun h => (by cases h.1), rfl⟩

theorem witness_RegisterWriters :
    exec (.inc (.code .eax)) at64 = .next (setReg .eax 1#32 (at64.advance 2))
      ∧ (setReg .eax 1#32 (at64.advance 2)).readReg .eax ≠ at64.readReg .eax := ⟨by rfl, by decide⟩

theorem witness_MemoryWriters :
    exec .uld twoInWindow = .next (((twoInWindow.advance 1).withMem [(0xFF02, 7#32)]).withDataIndex 0)
      ∧ Memory.read [(0xFF02, 7#32)] 0xFF01 ≠ Memory.read twoInWindow.mem 0xFF01 := ⟨by rfl, by decide⟩

theorem witness_OnlyLoadWritesImage :
    (loading [1#32] .idle).schedule = [.host (.load [1#32])] ∧ LoadAllowed [1#32] (loading [1#32] .idle)
      ∧ step (loading [1#32] .idle) = .next (hostLoad [1#32] ((loading [1#32] .idle).withSchedule [])) :=
  ⟨rfl, ⟨.inl rfl, (Config.imageOk_iff _ _).mp (by decide)⟩, by rfl⟩

theorem witness_PortsOnlyGrowUntilRead :
    step (at64.withSchedule [.host .readPorts]) = .next (hostReadPorts at64) := by rfl

theorem witness_OnlyLoadLeavesTerminalStates : ended (at64.withRun .halted)
    ∧ step (at64.withRun .halted) = .next (at64.withRun .halted)
    ∧ ended (loading [] (.faulted .divideByZero))
    ∧ step (loading [] (.faulted .divideByZero))
      = .next (hostLoad [] ((loading [] (.faulted .divideByZero)).withSchedule [])) :=
  ⟨.inl rfl, rfl, .inr ⟨_, rfl⟩, by rfl⟩

theorem witness_OnlyAckLeavesAwaitAck :
    (at64.withRun (.awaitAck .breakpoint .nextIteration)).run = .awaitAck .breakpoint .nextIteration
      ∧ step (at64.withRun (.awaitAck .breakpoint .nextIteration))
        = .next (at64.withRun (.awaitAck .breakpoint .nextIteration)) := ⟨rfl, rfl⟩

/-- One run state each: a double fault, a divide by zero, an out-of-memory, two suspensions and a halt. -/
theorem witness_EventSources : at64.run = .running
    ∧ exec (.int 4#32) at64 = .next ((((at64.advance 2)).withMem [(0xF000, 4#32)]).withRun (.faulted .doubleFault))
    ∧ exec (.div (.lit 5#32) (.lit 0#32)) at64 = .next ((at64.advance 3).withRun (.faulted .divideByZero))
    ∧ exec (.int 5#32) at64 = .next ((((at64.advance 2)).withMem [(0xF000, 5#32)]).withRun (.faulted .outOfMemory))
    ∧ exec .brk at64 = .next ((at64.advance 1).withRun (.awaitAck .breakpoint .nextIteration))
    ∧ exec (.int 1#32) at64
      = .next ((((at64.advance 2)).withMem [(0xF000, 1#32)]).withRun (.awaitAck .singleStep .nextIteration))
    ∧ exec .hlt at64 = .next ((at64.advance 1).withRun .halted) :=
  ⟨rfl, by rfl, by rfl, by rfl, rfl, by rfl, rfl⟩

/-- Each way int and the rom sentinel run out of memory, with the window in memory. -/
theorem witness_EventSources_outOfMemory :
    IntRunsOutOfMemory 0x80#32 (writing 1 0x101) ∧ (writing 1 0x101).dataIndex.toNat = 0
      ∧ (intDispatch 0x80#32 0x64#33 (writing 1 0x101)).run = .faulted .outOfMemory
      ∧ IntRunsOutOfMemory 5#32 at64
      ∧ exec .secRom (inData 0xFE#32 0x100) = .next (((inData 0xFE#32 0x100).advance 1).withRun (.faulted .outOfMemory))
      ∧ (inData 0xFE#32 0x100).cfg.varLoc + (inData 0xFE#32 0x100).dataIndex.toNat = at64.cfg.memSize :=
  ⟨.inr (.inr (by decide)), by decide, by decide, .inr (.inl rfl), by rfl, by decide⟩

theorem witness_ParametersNeverChange : exec .nop at64 = .next (at64.advance 1)
    ∧ step (withCells [0#32]) = .next ((withCells [0#32]).advance 1) := ⟨rfl, by rfl⟩

theorem witness_ScheduledEngineTurnDoesTheSame :
    ((inData 2#32 0).withSchedule [.engine, .host .readPorts]).schedule = .engine :: [.host .readPorts] := rfl

/-- The invariant on machines of the least and of the greatest cell width, with the greatest pc. -/
theorem witness_WidthsHold : ∀ bits ∈ [17, 32],
    Inv { at64 with cfg := { Config.default with cellBits := bits }, pc := BitVec.ofNat 33 (2 ^ bits), m0 := [1#32] } := by
  intro bits hb
  have hb : bits = 17 ∨ bits = 32 := by simpa using hb
  rcases hb with rfl | rfl
  · exact { config := by decide, memory := by decide, image := by decide, pcBound := by decide, window := .inl rfl,
            suspended := fun _ h => (by cases h), flags := by decide }
  · exact { config := by decide, memory := by decide, image := by decide, pcBound := by decide, window := .inl rfl,
            suspended := fun _ h => (by cases h), flags := by decide }

end Sys2Proof.Tests
end

section
/-! The family 10_state.md: FlagsByte as a read-only view (R31), and the writers of the retained image (R35). -/

namespace Sys2Proof.Machine

/-! ### The bits of FlagsByte (10_state.md R31) -/

/-- One flag of the packed view stands in its own bit alone. -/
theorem flagBit_getLsbD (b : Bool) (n k : Nat) (hk : k < 8) :
    (flagBit b n).getLsbD k = (b && decide (k = n)) := by
  cases b with
  | false => simp [flagBit]
  | true =>
    have hbit : n ≤ k ∧ k - n = 0 ↔ k = n := by omega
    simp [flagBit, hk, ← hbit, ← decide_not]

theorem flagsByte_bits (f : Flags) :
    (flagsByte f).getLsbD 7 = f.z ∧ (flagsByte f).getLsbD 6 = f.c ∧ (flagsByte f).getLsbD 5 = f.o
      ∧ (flagsByte f).getLsbD 4 = f.s ∧ (flagsByte f).getLsbD 3 = f.b ∧ (flagsByte f).getLsbD 2 = f.t
      ∧ (flagsByte f).getLsbD 1 = f.i ∧ (flagsByte f).getLsbD 0 = f.e := by
  simp [flagsByte, flagBit_getLsbD, -BitVec.getLsbD_eq_getElem]

/-! ### Operations run from a state with other flags

No operation reads a flag, so each one gives the same state but for the flags: the flags it was run from, or, after a
restart, the flags the restart set. -/

@[simp] theorem State.readReg_withFlags (s : State) (f : Flags) (r : Reg) :
    (s.withFlags f).readReg r = s.readReg r := rfl

@[simp] theorem resolve_withFlags (v : Value) (s : State) (f : Flags) : resolve v (s.withFlags f) = resolve v s :=
  resolve_congr rfl v

@[simp] theorem rsEquals_withFlags (v : Value) (s : State) (f : Flags) :
    rsEquals v (s.withFlags f) = rsEquals v s := by
  simp [rsEquals]

theorem State.withFlags_ite (p : Prop) [Decidable p] (s t : State) (f : Flags) :
    (if p then s else t).withFlags f = if p then s.withFlags f else t.withFlags f :=
  apply_ite (State.withFlags · f) p s t

theorem State.advance_withFlags (s : State) (f : Flags) (n : Nat) :
    (s.withFlags f).advance n = (s.advance n).withFlags f := rfl

theorem State.memWrite_withFlags (s : State) (f : Flags) (a : Nat) (v : Cell) :
    (s.withFlags f).memWrite a v = (s.memWrite a v).map (State.withFlags · f) := by
  rw [State.memWrite, State.memWrite, apply_ite (Except.map _)]; rfl

theorem jumpIf_withFlags (taken : Bool) (a : Cell) (n : Nat) (s : State) (f : Flags) :
    jumpIf taken a n (s.withFlags f) = (jumpIf taken a n s).withFlags f := by
  cases taken <;> rfl

theorem countBy_withFlags (d : Int) (reg : Dest) (s : State) (f : Flags) :
    countBy d reg (s.withFlags f) = (countBy d reg s).withFlags f := by
  unfold countBy
  split
  · rw [State.withFlags_ite]; rfl
  · rfl

theorem unrecognized_withFlags (c : Cell) (s : State) (f : Flags) :
    unrecognized c (s.withFlags f) = (unrecognized c s).withFlags f := by
  rw [unrecognized, unrecognized, State.withFlags_ite]; rfl

theorem dataCell_withFlags (c : Cell) (s : State) (f : Flags) :
    dataCell c (s.withFlags f) = (dataCell c s).withFlags f := by
  simp only [dataCell, State.withFlags_ite, State.advance_withFlags, State.memWrite_withFlags, State.withFlags_cfg,
    State.withFlags_dataIndex]
  cases (s.advance 1).memWrite (s.cfg.varLoc + s.dataIndex.toNat) c <;> rfl

theorem writeText_withFlags (s : State) (f : Flags) : writeText (s.withFlags f) = (writeText s).withFlags f := by
  rw [writeText, writeText, State.withFlags_ite]; rfl

/-- The Restart syscall is the one that sets the flags itself. -/
theorem syscall_withFlags (s : State) (f : Flags) : ∃ g, syscall (s.withFlags f) = (syscall s).withFlags g := by
  by_cases h : s.readReg .eax = s.cfg.sysRestart
  · refine ⟨(restartSyscall s).flags, ?_⟩
    simp only [syscall, State.readReg_withFlags, State.withFlags_cfg, h, ↓reduceIte]
    rfl
  · refine ⟨f, ?_⟩
    simp only [syscall, State.readReg_withFlags, State.withFlags_cfg, h, ↓reduceIte, State.withFlags_ite,
      writeText_withFlags]
    rfl

theorem intDispatch_withFlags (c : Cell) (a : Addr) (s : State) (f : Flags) :
    ∃ g, intDispatch c a (s.withFlags f) = (intDispatch c a s).withFlags g := by
  by_cases h : c = s.cfg.syscallCode
  · simpa [intDispatch, h] using syscall_withFlags s f
  · refine ⟨f, ?_⟩
    simp only [intDispatch, State.withFlags_cfg, h, ↓reduceIte, State.withFlags_ite]
    rfl

/-- An instruction answers the same next state, but for the flags, from whatever flags it is run. -/
theorem exec_withFlags (i : Instr) (s : State) (f : Flags) :
    ∃ t g, exec i s = .next t ∧ exec i (s.withFlags f) = .next (t.withFlags g) := by
  cases i with
  | nop | hlt | brk | secData | secText | jmp => exact ⟨_, f, rfl, rfl⟩
  | mov m d v =>
    simp only [exec, execMov, resolve_withFlags]
    cases modeWidth m <;> cases designated d <;> exact ⟨_, f, rfl, rfl⟩
  | int c =>
    simp only [exec, execInt, State.advance_withFlags, State.memWrite_withFlags, State.withFlags_cfg]
    cases (s.advance 2).memWrite s.cfg.intLoc c with
    | ok t =>
      obtain ⟨g, hg⟩ := intDispatch_withFlags c s.pc t f
      exact ⟨_, g, rfl, congrArg _ hg⟩
    | error cause => exact ⟨_, f, rfl, rfl⟩
  | add v w => exact ⟨_, f, rfl, by simp only [exec, execAdd, resolve_withFlags]; rfl⟩
  | sub v w => exact ⟨_, f, rfl, by simp only [exec, execSub, resolve_withFlags]; rfl⟩
  | mul v w => exact ⟨_, f, rfl, by simp only [exec, execMul, resolve_withFlags]; rfl⟩
  | and v w => exact ⟨_, f, rfl, by simp only [exec, execAnd, resolve_withFlags]; rfl⟩
  | div v w =>
    simp only [exec, execDiv, resolve_withFlags]
    split <;> exact ⟨_, f, rfl, rfl⟩
  | inc d => exact ⟨_, f, rfl, congrArg _ (countBy_withFlags 1 d s f)⟩
  | dec d => exact ⟨_, f, rfl, congrArg _ (countBy_withFlags (-1) d s f)⟩
  | je v a => exact ⟨_, f, rfl, by simp [exec, execJe, jumpIf_withFlags]⟩
  | jne v a => exact ⟨_, f, rfl, by simp [exec, execJne, jumpIf_withFlags]⟩
  | jz a => exact ⟨_, f, rfl, congrArg _ (jumpIf_withFlags (rsZero s) a 2 s f)⟩
  | jnz a => exact ⟨_, f, rfl, congrArg _ (jumpIf_withFlags (!rsZero s) a 2 s f)⟩
  | uld =>
    rcases execUld_cases s with ⟨hex, e⟩ | ⟨hex, e⟩
    · exact ⟨_, f, e, if_pos hex⟩
    · exact ⟨_, f, e, if_neg (Bool.eq_false_iff.mp hex)⟩
  | secRom =>
    simp only [exec, execSecRom, State.withFlags_sect, State.withFlags_cfg, unrecognized_withFlags,
      dataCell_withFlags]
    cases s.sect <;> exact ⟨_, f, rfl, rfl⟩

/-- Settles O48: the bits one by one; no flag is read, by the case of each instruction. -/
theorem flagsByteIsOnlyAView : Obligations.FlagsByteIsOnlyAView := by
  refine ⟨flagsByte_bits, fun _ _ => rfl, fun _ => rfl, fun i s t f h => ?_⟩
  obtain ⟨t', g, ht, hu⟩ := exec_withFlags i s f
  obtain rfl : t' = t := by simpa [ht] using h
  exact ⟨_, hu, rfl⟩

/-! ### What no instruction and no iteration of the engine writes -/

/-- The parameters, the retained image and the schedule are as before. -/
structure FixedSame (s t : State) : Prop where
  cfg : t.cfg = s.cfg
  m0 : t.m0 = s.m0
  schedule : t.schedule = s.schedule

theorem FixedSame.refl (s : State) : FixedSame s s := ⟨rfl, rfl, rfl⟩

theorem FixedSame.trans {s t u : State} (h : FixedSame s t) (k : FixedSame t u) : FixedSame s u :=
  ⟨k.cfg.trans h.cfg, k.m0.trans h.m0, k.schedule.trans h.schedule⟩

theorem fixedSame_takeEvent (e : Event) (s : State) : FixedSame s (takeEvent e s) := by
  cases e <;> exact ⟨rfl, rfl, rfl⟩

theorem fixedSame_doRestart (s : State) : FixedSame s (doRestart s) := ⟨rfl, rfl, rfl⟩

theorem fixedSame_unrecognized (c : Cell) (s : State) : FixedSame s (unrecognized c s) := by
  rcases unrecognized_cases c s with ⟨_, e⟩ | ⟨_, e⟩ <;> rw [e] <;> exact ⟨rfl, rfl, rfl⟩

theorem fixedSame_dataCell (c : Cell) (s : State) : FixedSame s (dataCell c s) := by
  rcases dataCell_cases c s with ⟨_, e⟩ | ⟨_, _, e⟩ | ⟨_, _, e⟩ <;> rw [e] <;> exact ⟨rfl, rfl, rfl⟩

theorem fixedSame_countBy (d : Int) (reg : Dest) (s : State) : FixedSame s (countBy d reg s) := by
  rcases countBy_cases d reg s with ⟨_, _, _, e⟩ | ⟨_, e⟩ <;> rw [e] <;> exact ⟨rfl, rfl, rfl⟩

theorem fixedSame_jumpIf (taken : Bool) (a : Cell) (n : Nat) (s : State) : FixedSame s (jumpIf taken a n s) := by
  rw [jumpIf_eq]; exact ⟨rfl, rfl, rfl⟩

theorem fixedSame_syscall (s : State) : FixedSame s (syscall s) := by
  rcases syscall_cases s with e | ⟨_, e⟩ | e | e <;> rw [e] <;> exact ⟨rfl, rfl, rfl⟩

theorem fixedSame_intDispatch (c : Cell) (a : Addr) (s : State) : FixedSame s (intDispatch c a s) := by
  rcases intDispatch_cases c a s with e | ⟨_, e⟩ | ⟨_, e⟩ | e <;> rw [e]
  · exact fixedSame_syscall s
  all_goals exact ⟨rfl, rfl, rfl⟩

theorem exec_answers_fixedSame (i : Instr) (s : State) : ∃ t, exec i s = .next t ∧ FixedSame s t := by
  cases i with
  | nop | hlt | brk | secData | secText | add | sub | mul | and => exact ⟨_, rfl, rfl, rfl, rfl⟩
  | mov m d v =>
    rcases execMov_cases m d v s with ⟨_, _, _, _, e⟩ | ⟨_, e⟩ <;> exact ⟨_, e, rfl, rfl, rfl⟩
  | int c =>
    rcases execInt_cases c s with ⟨_, e⟩ | ⟨_, e⟩
    · exact ⟨_, e, .trans (t := (s.advance 2).withMem _) ⟨rfl, rfl, rfl⟩ (fixedSame_intDispatch _ _ _)⟩
    · exact ⟨_, e, rfl, rfl, rfl⟩
  | div v w =>
    simp only [exec, execDiv]
    split <;> exact ⟨_, rfl, rfl, rfl, rfl⟩
  | inc d => exact ⟨_, rfl, fixedSame_countBy 1 d s⟩
  | dec d => exact ⟨_, rfl, fixedSame_countBy (-1) d s⟩
  | jmp | je | jne | jz | jnz => exact ⟨_, rfl, fixedSame_jumpIf _ _ _ s⟩
  | uld => rcases execUld_cases s with ⟨_, e⟩ | ⟨_, e⟩ <;> exact ⟨_, e, rfl, rfl, rfl⟩
  | secRom =>
    simp only [exec, execSecRom]
    split
    · exact ⟨_, rfl, fixedSame_unrecognized _ s⟩
    · exact ⟨_, rfl, fixedSame_dataCell _ s⟩

theorem instructionPosition_answers_fixedSame (s : State) :
    ∃ t, instructionPosition s = .next t ∧ FixedSame s t := by
  unfold instructionPosition
  split
  · exact ⟨_, rfl, fixedSame_takeEvent _ s⟩
  · split
    · exact ⟨_, rfl, fixedSame_dataCell _ s⟩
    · split
      · exact exec_answers_fixedSame _ s
      · exact ⟨_, rfl, fixedSame_unrecognized _ s⟩
      · exact ⟨_, rfl, rfl, rfl, rfl⟩
      · exact ⟨_, rfl, fixedSame_takeEvent _ s⟩

theorem continueIteration_answers_fixedSame (s : State) : ∃ t, continueIteration s = .next t ∧ FixedSame s t := by
  unfold continueIteration
  split
  · exact ⟨_, rfl, fixedSame_doRestart s⟩
  · exact instructionPosition_answers_fixedSame s

theorem engineTurn_answers_fixedSame (s : State) : ∃ t, engineTurn s = .next t ∧ FixedSame s t := by
  unfold engineTurn iteration
  split
  · split
    · exact ⟨_, rfl, rfl, rfl, rfl⟩
    · split
      · exact ⟨_, rfl, fixedSame_takeEvent _ s⟩
      · exact continueIteration_answers_fixedSame s
  all_goals exact ⟨_, rfl, .refl s⟩

/-! ### The host's turn and the step -/

theorem hostAllowed_load_iff (image : List Cell) (s : State) :
    hostAllowed (.load image) s = true ↔ LoadAllowed image s := by
  cases h : s.run <;> simp [hostAllowed, LoadAllowed, h, Config.imageOk_iff]

theorem hostAck_answers_fixedSame (s : State) : ∃ t, hostAck s = .next t ∧ FixedSame s t := by
  unfold hostAck
  split
  · next t h =>
    obtain ⟨_, rfl⟩ := endSuspension_some h
    obtain ⟨u, hu, hfix⟩ := continueIteration_answers_fixedSame (s.withRun .running)
    exact ⟨u, hu, .trans (t := s.withRun .running) ⟨rfl, rfl, rfl⟩ hfix⟩
  · next t h =>
    obtain ⟨_, rfl⟩ := endSuspension_some h
    exact ⟨_, rfl, rfl, rfl, rfl⟩
  · exact ⟨_, rfl, .refl s⟩

theorem hostTurn_load {image : List Cell} {s : State} (h : LoadAllowed image s) :
    hostTurn (.load image) s = .next (hostLoad image s) :=
  if_pos ((hostAllowed_load_iff image s).mpr h)

/-- The host's turn is an allowed Load, or it writes neither parameters, retained image nor schedule. -/
theorem hostTurn_cases (op : HostOp) (s : State) :
    (∃ image, op = .load image ∧ LoadAllowed image s ∧ hostTurn op s = .next (hostLoad image s)) ∨
      ∃ t, hostTurn op s = .next t ∧ FixedSame s t := by
  by_cases ha : hostAllowed op s = true
  · cases op with
    | load image =>
      have hl := (hostAllowed_load_iff image s).mp ha
      exact .inl ⟨image, rfl, hl, hostTurn_load hl⟩
    | ack =>
      rw [hostTurn, if_pos ha]
      exact .inr (hostAck_answers_fixedSame s)
    | start | setTrap | requestRestart | readState | readPorts =>
      exact .inr ⟨_, if_pos ha, rfl, rfl, rfl⟩
  · exact .inr ⟨s, if_neg ha, .refl s⟩

theorem step_of_nil {s : State} (h : s.schedule = []) : step s = engineTurn s := by
  rw [step, takeTurn, h]

theorem step_of_engine {s : State} {rest : List Turn} (h : s.schedule = .engine :: rest) :
    step s = engineTurn (s.withSchedule rest) := by
  rw [step, takeTurn, h]

theorem step_of_host {s : State} {op : HostOp} {rest : List Turn} (h : s.schedule = .host op :: rest) :
    step s = hostTurn op (s.withSchedule rest) := by
  rw [step, takeTurn, h]

/-- A step is an allowed Load, or it writes neither parameters nor retained image. -/
theorem step_cases (s : State) :
    (∃ image rest, s.schedule = .host (.load image) :: rest ∧ LoadAllowed image s
      ∧ step s = .next (hostLoad image (s.withSchedule rest))) ∨
      ∃ t, step s = .next t ∧ t.cfg = s.cfg ∧ t.m0 = s.m0 := by
  cases hs : s.schedule with
  | nil =>
    obtain ⟨t, ht, hfix⟩ := engineTurn_answers_fixedSame s
    exact .inr ⟨t, (step_of_nil hs).trans ht, hfix.cfg, hfix.m0⟩
  | cons turn rest =>
    cases turn with
    | engine =>
      obtain ⟨t, ht, hfix⟩ := engineTurn_answers_fixedSame (s.withSchedule rest)
      exact .inr ⟨t, (step_of_engine hs).trans ht, hfix.cfg, hfix.m0⟩
    | host op =>
      rw [step_of_host hs]
      rcases hostTurn_cases op (s.withSchedule rest) with ⟨image, rfl, hl, ht⟩ | ⟨t, ht, hfix⟩
      · exact .inl ⟨image, rest, rfl, hl, ht⟩
      · exact .inr ⟨t, ht, hfix.cfg, hfix.m0⟩

/-- Settles O52: by the cases of a step, and of the instruction it runs. -/
theorem onlyLoadWritesImage : Obligations.OnlyLoadWritesImage := by
  refine ⟨fun i s t h => ?_, fun s t h => ?_, fun s t image rest hs hl h => ?_⟩
  · obtain ⟨t', ht, hfix⟩ := exec_answers_fixedSame i s
    obtain rfl : t' = t := by simpa [ht] using h
    exact hfix.m0
  · rcases step_cases s with ⟨image, rest, hs, hl, ht⟩ | ⟨t', ht, _, hm0⟩
    · obtain rfl : hostLoad image (s.withSchedule rest) = t := by simpa [ht] using h
      exact .inr ⟨image, rest, hs, hl, rfl⟩
    · obtain rfl : t' = t := by simpa [ht] using h
      exact .inl hm0
  · rw [step_of_host hs, hostTurn_load (s := s.withSchedule rest) hl] at h
    cases h
    rfl

end Sys2Proof.Machine
end

section
/-! The family 40_cycle.md: what an instruction with operand cells does where it completes (R170, R180, R212, R213,
R231 to R237), and the fault where its operand cells run past memory (R139). -/

namespace Sys2Proof.Machine

/-! ### Frames of the shared updates -/

theorem onlyPcAndRegs_withPc (s : State) (a : Addr) : OnlyPcAndRegs [] s (s.withPc a) :=
  ⟨regsSameBut_of_eq [] rfl, memSame_of_eq rfl, ⟨rfl, rfl, rfl, rfl, rfl⟩, ⟨rfl, rfl⟩, rfl, rfl⟩

theorem onlyPcAndRegs_advance (s : State) (n : Nat) : OnlyPcAndRegs [] s (s.advance n) :=
  onlyPcAndRegs_withPc s _

theorem onlyPcAndRegs_writeReg (s : State) (n : Nat) (r : Reg) (v : Word) :
    OnlyPcAndRegs [r] s ((s.advance n).writeReg r v) :=
  ⟨regsSameBut_writeReg s (s.advance n) r v rfl, memSame_of_eq rfl, ⟨rfl, rfl, rfl, rfl, rfl⟩, ⟨rfl, rfl⟩, rfl, rfl⟩

theorem onlyPcAndRun_withRun (s : State) (n : Nat) (k : RunState) : OnlyPcAndRun s ((s.advance n).withRun k) :=
  ⟨regsSameBut_of_eq [] rfl, memSame_of_eq rfl, ⟨rfl, rfl, rfl, rfl, rfl⟩, ⟨rfl, rfl⟩, rfl⟩

theorem readReg_writeReg_self (s : State) (r : Reg) (v : Word) :
    (s.writeReg r v).readReg r = truncWord (regWidth r) v := by
  rw [State.readReg_writeReg, if_pos rfl]

/-! ### The iteration down to the instruction position (40_cycle.md R130, R139) -/

theorem EngineReady.pc_lt {s : State} (h : EngineReady s) : s.pc.toNat < s.cfg.memSize := by
  obtain ⟨-, -, hpc, -, -⟩ := h
  exact hpc

theorem step_of_engineReady {s : State} (h : EngineReady s) : step s = instructionPosition s := by
  obtain ⟨hschedule, hrun, hpc, ht, hr⟩ := h
  rw [step_of_nil hschedule, engineTurn, hrun]
  simp only [iteration, Nat.not_le.mpr hpc, ht, continueIteration, hr, Bool.false_eq_true, ↓reduceIte]

theorem isData_of_text {s : State} (h : s.sect = .text) (c : Cell) : isData s c = false := by
  simp [isData, h]

/-- With too few operand cells an opcode reads no instruction. -/
theorem decodeOperands_of_short (cfg : Config) {op : Opcode} {rest : List Cell} (h : rest.length < op.operands) :
    decodeOperands cfg op rest = none := by
  cases op with
  | nop | hlt | uld | brk | secData | secText | secRom => exact absurd h (Nat.not_lt_zero _)
  | int | jmp | inc | dec | jz | jnz =>
    match rest, h with
    | [], _ => rfl
  | add | sub | mul | div | and | je | jne =>
    match rest, h with
    | [], _ => rfl
    | [_], _ => rfl
  | mov =>
    match rest, h with
    | [], _ => rfl
    | [_], _ => rfl
    | [_, _], _ => rfl

theorem decode_of_short {cfg : Config} (hwf : cfg.wellFormed = true) {op : Opcode} {rest : List Cell}
    (h : rest.length < op.operands) : decode cfg (op.value cfg :: rest) = .error (.truncated op) := by
  simp only [decode, decodeOpcode_of_value hwf, decodeOperands_of_short cfg h]

/-- The fetch reaches as far as any instruction does, so that where an operand cell is missing it stops at the end of
memory. -/
theorem fetchFrom_length_of_short {s : State} {op : Opcode} (hpc : s.pc.toNat < s.cfg.memSize)
    (hend : s.cfg.memSize < s.pc.toNat + 1 + op.operands) :
    (fetchFrom s (s.pc.toNat + 1) 3).length = s.cfg.memSize - (s.pc.toNat + 1) := by
  have hops : op.operands ≤ 3 := by cases op <;> decide
  rw [(fetchFrom_spec s (s.pc.toNat + 1) 3).1]
  omega

/-- In text, the step at an instruction cut off by the end of memory takes the fault past the cells that are there. -/
theorem step_of_missing_operands {s : State} {op : Opcode} (hwf : s.cfg.wellFormed = true) (hready : EngineReady s)
    (htext : s.sect = .text) (hcell : cellAtPc s = op.value s.cfg)
    (hend : s.cfg.memSize < s.pc.toNat + 1 + op.operands) :
    step s = .next ((s.advance (s.cfg.memSize - s.pc.toNat)).withRun (.faulted .outOfMemory)) := by
  have hpc := hready.pc_lt
  have hlen := fetchFrom_length_of_short hpc hend
  have hshort : (fetchFrom s (s.pc.toNat + 1) 3).length < op.operands := by omega
  have hsum : s.cfg.memSize - (s.pc.toNat + 1) + 1 = s.cfg.memSize - s.pc.toNat := by omega
  rw [step_of_engineReady hready, instructionPosition, fetchCells_head hpc, hcell]
  simp only [isData_of_text htext, decode_of_short hwf hshort, hlen, hsum, takeEvent_fault, Bool.false_eq_true,
    ↓reduceIte]

/-- pc does not wrap on its way to the end of memory. -/
theorem advance_to_memSize_pc {s : State} (hwf : s.cfg.wellFormed = true) (hpc : s.pc.toNat < s.cfg.memSize) :
    (s.advance (s.cfg.memSize - s.pc.toNat)).pc.toNat = s.cfg.memSize := by
  have hsize : s.cfg.memSize ≤ 2 ^ 32 :=
    (Config.size_bounds hwf).2.trans (Nat.pow_le_pow_right (by decide) (Config.width_bounds hwf).1)
  rw [State.advance_pc, BitVec.toNat_add, BitVec.toNat_ofNat]
  omega

/-- Settles O39: the operand cells fetched are too few for the row, so that its decoding is cut off. -/
theorem missingOperandCellsFault : Obligations.MissingOperandCellsFault := by
  intro op s hwf hready htext hcell hend
  exact ⟨_, step_of_missing_operands hwf hready htext hcell hend, rfl, advance_to_memSize_pc hwf hready.pc_lt,
    onlyPcAndRun_withRun s _ _⟩

/-! ### mov (42_mov.md R170, R171) -/

theorem modeWidth_ofCell (cfg : Config) (m : Cell) :
    modeWidth (Mode.ofCell cfg m) =
      if m = cfg.movMode8 then some 8 else if m = cfg.movMode16 then some 16 else none := by
  unfold Mode.ofCell
  split
  · rfl
  · split <;> rfl

/-- mov with a width and a register: the source, limited to the width and then to the register. -/
theorem exec_mov_writes {m : Mode} {d : Dest} {w : Nat} {r : Reg} (hm : modeWidth m = some w)
    (hd : designated d = some r) (v : Value) (s : State) :
    ∃ t, exec (.mov m d v) s = .next t ∧ (t.readReg r).toNat = (resolve v s).toNat % 2 ^ w % 2 ^ regWidth r
      ∧ t.pc = s.pc + 4 ∧ OnlyPcAndRegs [r] s t := by
  refine ⟨(s.advance 4).writeReg r (truncWord w (resolve v s)), ?_, ?_, rfl, onlyPcAndRegs_writeReg s 4 r _⟩
  · simp only [exec, execMov, hm, hd]
  · rw [readReg_writeReg_self, truncWord_toNat, truncWord_toNat]

/-- mov without a width or without a register only passes over its cells. -/
theorem exec_mov_writes_nothing {m : Mode} {d : Dest} (h : modeWidth m = none ∨ designated d = none) (v : Value)
    (s : State) : exec (.mov m d v) s = .next (s.advance 4) := by
  rcases execMov_cases m d v s with ⟨w, r, hm, hd, -⟩ | ⟨-, e⟩
  · simp [hm, hd] at h
  · exact e

/-- Settles O12: by the width the mode cell selects and the register the designator selects. -/
theorem movWritesLimitedValue : Obligations.MovWritesLimitedValue := by
  refine ⟨fun s m d v r hd => ⟨fun h8 => ?_, fun h8 h16 => ?_⟩, fun s m d v h => ?_, missingOperandCellsFault .mov⟩
  · exact exec_mov_writes (by rw [modeWidth_ofCell, if_pos h8]) hd v s
  · exact exec_mov_writes (by rw [modeWidth_ofCell, if_neg h8, if_pos h16]) hd v s
  · have hnone : modeWidth (Mode.ofCell s.cfg m) = none ∨ designated d = none :=
      h.imp_left fun ⟨h8, h16⟩ => by rw [modeWidth_ofCell, if_neg h8, if_neg h16]
    exact ⟨_, exec_mov_writes_nothing hnone v s, rfl, onlyPcAndRegs_advance s 4⟩

/-! ### Conditional jumps (44_jumps.md R210, R212, R213) -/

theorem target_toNat (a : Cell) : (target a).toNat = a.toNat := by
  rw [target, cellAddr, BitVec.toNat_setWidth]
  exact Nat.mod_eq_of_lt (a.isLt.trans (by decide))

theorem jumpIf_frame (taken : Bool) (a : Cell) (n : Nat) (s : State) : OnlyPcAndRegs [] s (jumpIf taken a n s) := by
  rw [jumpIf_eq]
  exact onlyPcAndRegs_withPc s _

theorem jumpIf_pc_of_taken {taken : Bool} (h : taken = true) (a : Cell) (n : Nat) (s : State) :
    (jumpIf taken a n s).pc.toNat = a.toNat := by
  rw [jumpIf_eq, if_pos h, State.withPc_pc, target_toNat]

theorem jumpIf_pc_of_not_taken {taken : Bool} (h : taken = false) (a : Cell) (n : Nat) (s : State) :
    (jumpIf taken a n s).pc = s.pc + BitVec.ofNat 33 n := by
  rw [jumpIf_eq, h]
  rfl

theorem rsEquals_eq_false_iff (v : Value) (s : State) : rsEquals v s = false ↔ s.readReg .rs ≠ resolve v s := by
  rw [← Bool.not_eq_true, rsEquals_iff]

/-- Settles O14: each jump by whether its condition on RS holds. -/
theorem jeAndJneCompareRs : Obligations.JeAndJneCompareRs := by
  refine ⟨fun s v a => ⟨_, rfl, jumpIf_frame (rsEquals v s) a 3 s, fun he => ?_, fun hne => ?_⟩,
    fun s v a => ⟨_, rfl, jumpIf_frame (!rsEquals v s) a 3 s, fun hne => ?_, fun he => ?_⟩,
    missingOperandCellsFault .je, missingOperandCellsFault .jne⟩
  · exact jumpIf_pc_of_taken ((rsEquals_iff v s).mpr he) a 3 s
  · exact jumpIf_pc_of_not_taken ((rsEquals_eq_false_iff v s).mpr hne) a 3 s
  · exact jumpIf_pc_of_taken (by rw [(rsEquals_eq_false_iff v s).mpr hne]; rfl) a 3 s
  · exact jumpIf_pc_of_not_taken (by rw [(rsEquals_iff v s).mpr he]; rfl) a 3 s

/-! ### Results in RS (45_alu.md R230 to R234, R237) -/

theorem wrap_toNat (x : Int) : ((wrap x).toNat : Int) = x % 2 ^ 32 := by
  rw [wrap, BitVec.toNat_ofInt]
  exact Int.toNat_of_nonneg (Int.emod_nonneg x (by decide))

theorem wrap_natCast_toNat (n : Nat) : (wrap n).toNat = n % 2 ^ 32 := by
  have h := wrap_toNat n
  omega

theorem toRs_frame (v : Word) (s : State) : OnlyPcAndRegs [.rs] s (toRs v s) := onlyPcAndRegs_writeReg s 3 .rs v

@[simp] theorem toRs_readReg_rs (v : Word) (s : State) : (toRs v s).readReg .rs = v := rfl

/-- Settles O16: the result goes to RS, and wrapping keeps it modulo 2^32. -/
theorem addSubMulWrapIntoRs : Obligations.AddSubMulWrapIntoRs := by
  refine ⟨fun s v w => ⟨_, rfl, rfl, toRs_frame _ s, ?_⟩, fun s v w => ⟨_, rfl, rfl, toRs_frame _ s, ?_⟩,
    fun s v w => ⟨_, rfl, rfl, toRs_frame _ s, ?_⟩, fun cfg v w => ⟨rfl, rfl, rfl⟩, missingOperandCellsFault .add,
    missingOperandCellsFault .sub, missingOperandCellsFault .mul⟩
  · rw [toRs_readReg_rs]
    exact wrap_natCast_toNat ((resolve v s).toNat + (resolve w s).toNat)
  · rw [toRs_readReg_rs, wrap_toNat]
  · rw [toRs_readReg_rs]
    exact wrap_natCast_toNat ((resolve v s).toNat * (resolve w s).toNat)

theorem sint_eq_zero_iff (x : Word) : sint x = 0 ↔ x = 0 :=
  BitVec.toInt_inj (y := 0)

/-- div by a divisor that is not 0 writes the quotient rounded toward zero. -/
theorem exec_div_of_ne_zero {w : Value} {s : State} (h : resolve w s ≠ 0) (v : Value) :
    exec (.div v w) s = .next (toRs (wrap ((sint (resolve v s)).tdiv (sint (resolve w s)))) s) :=
  if_neg (mt (sint_eq_zero_iff _).mp h)

theorem abs_tmod_lt (a : Int) {b : Int} (h : b ≠ 0) : |a.tmod b| < |b| := by
  rw [Int.abs_eq_natAbs, Int.abs_eq_natAbs, Int.natAbs_tmod]
  exact_mod_cast Nat.mod_lt _ (Int.natAbs_pos.mpr h)

/-- The remainder of the division toward zero has the dividend's sign, or is 0. -/
theorem tmod_mul_self_nonneg (a b : Int) : 0 ≤ a.tmod b * a := by
  rcases le_total 0 a with ha | ha
  · exact mul_nonneg (Int.tmod_nonneg b ha) ha
  · have hneg : 0 ≤ (-a).tmod b := Int.tmod_nonneg b (neg_nonneg.mpr ha)
    rw [Int.neg_tmod] at hneg
    exact mul_nonneg_of_nonpos_of_nonpos (neg_nonneg.mp hneg) ha

/-- Settles O17: with the quotient and the remainder of the division toward zero. -/
theorem divTruncatesTowardZero : Obligations.DivTruncatesTowardZero := by
  refine ⟨fun s v w hw => ⟨_, exec_div_of_ne_zero hw v, rfl, toRs_frame _ s, ?_, fun hmin hneg => ?_⟩,
    missingOperandCellsFault .div⟩
  · have hb : (resolve w s).toInt ≠ 0 := mt (sint_eq_zero_iff _).mp hw
    exact ⟨(resolve v s).toInt.tdiv (resolve w s).toInt, (resolve v s).toInt.tmod (resolve w s).toInt,
      (Int.tdiv_mul_add_tmod _ _).symm, abs_tmod_lt _ hb, tmod_mul_self_nonneg _ _, rfl⟩
  · rw [toRs_readReg_rs, hmin, hneg]
    decide

/-- Settles O20: by whether both operands are strictly positive. -/
theorem andTestsPositivity : Obligations.AndTestsPositivity := by
  refine ⟨fun s v w => ⟨_, rfl, rfl, toRs_frame _ s, fun hpos => ?_, fun hnot => ?_⟩, missingOperandCellsFault .and⟩
  · rw [toRs_readReg_rs, if_pos]
    rw [Bool.and_eq_true, positive_iff, positive_iff]
    exact hpos
  · rw [toRs_readReg_rs, if_neg]
    rw [Bool.and_eq_true, positive_iff, positive_iff, not_and_or, not_lt, not_lt]
    exact hnot

/-! ### Counting (45_alu.md R235, R236) -/

theorem countable_iff (r : Reg) : countable r = true ↔ r ∈ [Reg.eax, .ebx, .ecx, .edx, .rs] := by
  cases r <;> decide

theorem regWidth_of_countable {r : Reg} (h : countable r = true) : regWidth r = 32 := by
  cases r with
  | eax | ebx | ecx | edx | rs => rfl
  | ax | bx | cx | dx | bax | bbx | bcx | bdx => cases h

/-- Counting a countable register changes it by the amount modulo 2^32. -/
theorem countBy_of_countable {reg : Dest} {r : Reg} (hd : designated reg = some r) (hc : countable r = true) (d : Int)
    (s : State) :
    (countBy d reg s).pc = s.pc + 2 ∧ OnlyPcAndRegs [r] s (countBy d reg s)
      ∧ (((countBy d reg s).readReg r).toNat : Int) = ((s.readReg r).toNat + d) % 2 ^ 32 := by
  have e : countBy d reg s = (s.advance 2).writeReg r (wrap ((s.readReg r).toNat + d)) := by
    simp only [countBy, hd, hc, ↓reduceIte]
  rw [e]
  refine ⟨rfl, onlyPcAndRegs_writeReg s 2 r _, ?_⟩
  rw [readReg_writeReg_self, truncWord_toNat, regWidth_of_countable hc, Nat.mod_eq_of_lt (BitVec.isLt _), wrap_toNat]

/-- Counting any other designator only passes over the two cells. -/
theorem countBy_of_not_countable {reg : Dest} (h : ∀ r, designated reg = some r → countable r ≠ true) (d : Int)
    (s : State) : countBy d reg s = s.advance 2 := by
  rcases countBy_cases d reg s with ⟨r, hd, hc, -⟩ | ⟨-, e⟩
  · exact absurd hc (h r hd)
  · exact e

/-- Settles O19: inc and dec are the two amounts of one count. -/
theorem incAndDecCount : Obligations.IncAndDecCount := by
  refine ⟨fun s d r hd hr => ?_, fun s d h => ?_, missingOperandCellsFault .inc, missingOperandCellsFault .dec⟩
  · have hc := (countable_iff r).mpr hr
    obtain ⟨hpcInc, hframeInc, hinc⟩ := countBy_of_countable hd hc 1 s
    obtain ⟨hpcDec, hframeDec, hdec⟩ := countBy_of_countable hd hc (-1) s
    exact ⟨⟨_, rfl, hpcInc, hframeInc, by omega⟩, ⟨_, rfl, hpcDec, hframeDec, by omega⟩⟩
  · have hskip := countBy_of_not_countable (reg := d) fun r hd => mt (countable_iff r).mp (h r hd)
    exact ⟨⟨s.advance 2, congrArg Host.Outcome.next (hskip 1 s), rfl, onlyPcAndRegs_advance s 2⟩,
      ⟨s.advance 2, congrArg Host.Outcome.next (hskip (-1) s), rfl, onlyPcAndRegs_advance s 2⟩⟩

/-! ### int (43_int.md R180, 60_exceptions.md R276) -/

/-- The state in which int dispatches its code: past its two cells, with the code in the interrupt cell. -/
def storedCode (c : Cell) (s : State) : State :=
  (s.advance 2).withMem (Memory.write s.mem s.cfg.intLoc (s.trimCell c))

theorem exec_int_of_cell {s : State} (h : s.cfg.intLoc < s.cfg.memSize) (c : Cell) :
    exec (.int c) s = .next (intDispatch c s.pc (storedCode c s)) := by
  rcases execInt_cases c s with ⟨-, e⟩ | ⟨hge, -⟩
  · exact e
  · omega

theorem intStored_storedCode (c : Cell) (s : State) : IntStored c s (storedCode c s) := by
  refine ⟨rfl, ?_, fun a ha => ?_, regsSameBut_of_eq [] rfl, ⟨rfl, rfl, rfl, rfl, rfl⟩, rfl⟩
  · rw [storedCode, State.withMem_mem, Memory.read_write, if_pos rfl, State.trimCell_toNat]
  · rw [storedCode, State.withMem_mem, Memory.read_write, if_neg ha]

/-- A report shows in its port alone. -/
theorem IntStored.emitReport {c : Cell} {s t : State} (h : IntStored c s t) (e : ReportEvent) :
    IntStored c s (t.emitReport e) := h

theorem intDispatch_of_other {c : Cell} {s : State} (hsys : c ≠ s.cfg.syscallCode) (hstep : c ≠ s.cfg.intSingleStep)
    (hbrk : c ≠ s.cfg.intBreakpoint) (hdouble : c ≠ s.cfg.intDoubleFault) (hmem : c ≠ s.cfg.intOutOfMemory) (a : Addr) :
    intDispatch c a s = s.emitReport (.interrupt c a) := by
  rw [intDispatch, if_neg hsys, if_neg hstep, if_neg hbrk, if_neg hdouble, if_neg hmem, takeEvent_report]

/-- Settles O24: no code with a handling of its own matches, so that the report is what the dispatch does. -/
theorem intReportsOtherCodes : Obligations.IntReportsOtherCodes := by
  refine ⟨fun s c hcell hsys hstep hbrk hdouble hmem => ?_, missingOperandCellsFault .int⟩
  have hdispatch : intDispatch c s.pc (storedCode c s) = (storedCode c s).emitReport (.interrupt c s.pc) :=
    intDispatch_of_other (s := storedCode c s) hsys hstep hbrk hdouble hmem s.pc
  exact ⟨_, (exec_int_of_cell hcell c).trans (congrArg _ hdispatch), (intStored_storedCode c s).emitReport _, rfl, rfl,
    rfl⟩

end Sys2Proof.Machine
end

section
/-! The family 44_jumps.md: the jump without a condition (R211) and the jumps on RS against zero (R214, R215). Their
target is the raw address cell (R210, decision D17). -/

namespace Sys2Proof.Machine

/-! ### A jump by what its condition says -/

/-- Where a jump goes once its condition is known to test `p`: to its target under `p`, else past its cells. -/
theorem jumpIf_of_iff {taken : Bool} {p : Prop} (h : taken = true ↔ p) (a : Cell) (n : Nat) (s : State) :
    OnlyPcAndRegs [] s (jumpIf taken a n s) ∧ (p → (jumpIf taken a n s).pc.toNat = a.toNat)
      ∧ (¬p → (jumpIf taken a n s).pc = s.pc + BitVec.ofNat 33 n) := by
  refine ⟨jumpIf_frame taken a n s, fun hp => ?_, fun hnp => ?_⟩
  · exact jumpIf_pc_of_taken (h.mpr hp) a n s
  · exact jumpIf_pc_of_not_taken (Bool.eq_false_iff.mpr (mt h.mp hnp)) a n s

theorem not_rsZero_iff (s : State) : (!rsZero s) = true ↔ s.readReg .rs ≠ 0 := by
  rw [Bool.not_eq_true', ← Bool.not_eq_true, rsZero_iff]

/-! ### jmp (R211) -/

/-- Settles O13: jmp is the jump that is always taken. -/
theorem jmpSetsPc : Obligations.JmpSetsPc := by
  refine ⟨fun s a => ⟨jumpIf true a 2 s, rfl, ?_, ?_⟩, fun _ _ => rfl, missingOperandCellsFault .jmp⟩
  · exact jumpIf_pc_of_taken rfl a 2 s
  · exact jumpIf_frame true a 2 s

/-! ### jz and jnz (R214, R215) -/

/-- Settles O15: each jump by what its condition says of RS. -/
theorem jzAndJnzTestRs : Obligations.JzAndJnzTestRs := by
  refine ⟨fun s a => ⟨jumpIf (rsZero s) a 2 s, rfl, ?_⟩, fun s a => ⟨jumpIf (!rsZero s) a 2 s, rfl, ?_⟩,
    fun _ _ => ⟨rfl, rfl⟩, missingOperandCellsFault .jz, missingOperandCellsFault .jnz⟩
  · exact jumpIf_of_iff (rsZero_iff s) a 2 s
  · obtain ⟨hframe, htaken, hpast⟩ := jumpIf_of_iff (not_rsZero_iff s) a 2 s
    exact ⟨hframe, htaken, fun hzero => hpast (not_not_intro hzero)⟩

end Sys2Proof.Machine
end

section
/-! The family 30_encoding.md: the decoder and the encoder undo each other (R90, R91, R94, R105), and what a cell
selects as an opcode, a value or a designator (R99, R100, R104). -/

namespace Sys2Proof

/-! ### Register codes and the register window (10_state.md R21, 20_memory.md R67) -/

theorem Reg.exists_code {n : Nat} (h : n < 13) : ∃ r : Reg, n = r.code := by
  cases hr : Reg.ofCode n with
  | some r => exact ⟨r, Reg.ofCode_some hr⟩
  | none => exact absurd (Reg.ofCode_none.mp hr) (Nat.not_le.mpr h)

/-- The window holds exactly the cells that name a register. -/
theorem Config.inWindow_iff_exists (cfg : Config) (c : Cell) :
    cfg.inWindow c = true ↔ ∃ r : Reg, c.toNat = cfg.regBase + r.code := by
  rw [Config.inWindow_iff]
  constructor
  · rintro ⟨hlo, hhi⟩
    obtain ⟨r, hr⟩ := Reg.exists_code (n := c.toNat - cfg.regBase) (by omega)
    exact ⟨r, by omega⟩
  · rintro ⟨r, hr⟩
    have hlt : r.code < 13 := r.code_lt
    omega

theorem Config.windowCell_toNat {cfg : Config} (h : cfg.wellFormed = true) (r : Reg) :
    (BitVec.ofNat 32 (cfg.regBase + r.code)).toNat = cfg.regBase + r.code := by
  obtain ⟨-, -, -, -, hbase, -, -⟩ := Config.source_values h
  have hlt : r.code < 13 := r.code_lt
  rw [BitVec.toNat_ofNat, Nat.mod_eq_of_lt]
  omega

theorem Reg.codeCell_toNat (r : Reg) : (BitVec.ofNat 32 r.code).toNat = r.code := by cases r <;> rfl

theorem Config.windowCell_isCell {cfg : Config} (h : cfg.wellFormed = true) (r : Reg) :
    cfg.isCell (BitVec.ofNat 32 (cfg.regBase + r.code)) = true := by
  obtain ⟨-, -, hfit⟩ := Config.width_bounds h
  have hlt : r.code < 13 := r.code_lt
  rw [Config.isCell_iff, Config.windowCell_toNat h]
  omega

theorem Reg.codeCell_isCell {cfg : Config} (h : cfg.wellFormed = true) (r : Reg) :
    cfg.isCell (BitVec.ofNat 32 r.code) = true := by
  obtain ⟨-, -, hfit⟩ := Config.width_bounds h
  have hlt : r.code < 13 := r.code_lt
  rw [Config.isCell_iff, Reg.codeCell_toNat]
  omega

/-- A cell is the one spelling of the number it holds. -/
theorem Cell.ofNat_of_toNat {c : Cell} {n : Nat} (h : c.toNat = n) : BitVec.ofNat 32 n = c := by
  rw [← h, BitVec.ofNat_toNat, BitVec.setWidth_eq]

/-! ### Value operands (30_encoding.md R99) -/

theorem Value.ofCell_of_window {cfg : Config} {c : Cell} {r : Reg} (h : c.toNat = cfg.regBase + r.code) :
    Value.ofCell cfg c = .reg r := by
  have hw : cfg.inWindow c = true := (cfg.inWindow_iff_exists c).mpr ⟨r, h⟩
  simp [Value.ofCell, hw, h, Reg.ofCode_code]

theorem Value.ofCell_of_literal {cfg : Config} {c : Cell} (h : cfg.inWindow c = false) :
    Value.ofCell cfg c = .lit c := by
  simp [Value.ofCell, h]

/-- A value cell names a register through the window, or is a literal. -/
theorem Value.ofCell_cases (cfg : Config) (c : Cell) :
    (∃ r : Reg, c.toNat = cfg.regBase + r.code ∧ Value.ofCell cfg c = .reg r) ∨
      (cfg.inWindow c = false ∧ Value.ofCell cfg c = .lit c) := by
  cases hw : cfg.inWindow c with
  | true =>
    obtain ⟨r, hr⟩ := (cfg.inWindow_iff_exists c).mp hw
    exact .inl ⟨r, hr, Value.ofCell_of_window hr⟩
  | false => exact .inr ⟨rfl, Value.ofCell_of_literal hw⟩

theorem Value.ofCell_toCell {cfg : Config} (h : cfg.wellFormed = true) {v : Value} (hv : v.wellFormed cfg = true) :
    Value.ofCell cfg (v.toCell cfg) = v := by
  cases v with
  | reg r => exact Value.ofCell_of_window (Config.windowCell_toNat h r)
  | lit c =>
    simp only [Value.wellFormed, Bool.and_eq_true, Bool.not_eq_true'] at hv
    exact Value.ofCell_of_literal hv.2

theorem Value.toCell_isCell {cfg : Config} (h : cfg.wellFormed = true) {v : Value} (hv : v.wellFormed cfg = true) :
    cfg.isCell (v.toCell cfg) = true := by
  cases v with
  | reg r => exact Config.windowCell_isCell h r
  | lit c =>
    simp only [Value.wellFormed, Bool.and_eq_true] at hv
    exact hv.1

theorem Value.toCell_ofCell (cfg : Config) (c : Cell) : (Value.ofCell cfg c).toCell cfg = c := by
  rcases Value.ofCell_cases cfg c with ⟨r, hr, e⟩ | ⟨-, e⟩ <;> rw [e]
  · exact Cell.ofNat_of_toNat hr
  · rfl

theorem Value.ofCell_wellFormed {cfg : Config} {c : Cell} (h : cfg.isCell c = true) :
    (Value.ofCell cfg c).wellFormed cfg = true := by
  rcases Value.ofCell_cases cfg c with ⟨r, -, e⟩ | ⟨hw, e⟩ <;> rw [e]
  · rfl
  · simp [Value.wellFormed, h, hw]

/-! ### Designators (30_encoding.md R100) -/

theorem Dest.ofCell_of_code (cfg : Config) {c : Cell} {r : Reg} (h : c.toNat = r.code) :
    Dest.ofCell cfg c = .code r := by
  simp [Dest.ofCell, h, Reg.ofCode_code]

theorem Dest.ofCell_of_window {cfg : Config} {c : Cell} {r : Reg} (hbase : 13 ≤ c.toNat)
    (h : c.toNat = cfg.regBase + r.code) : Dest.ofCell cfg c = .window r := by
  have hw : cfg.inWindow c = true := (cfg.inWindow_iff_exists c).mpr ⟨r, h⟩
  simp only [Dest.ofCell, Reg.ofCode_none.mpr hbase, hw, ↓reduceIte]
  rw [h, Nat.add_sub_cancel_left, Reg.ofCode_code]

theorem Dest.ofCell_of_noReg {cfg : Config} {c : Cell} (hbase : 13 ≤ c.toNat) (h : cfg.inWindow c = false) :
    Dest.ofCell cfg c = .noReg c := by
  simp [Dest.ofCell, Reg.ofCode_none.mpr hbase, h]

/-- A designator cell spells a register by its code or, failing that, by its window address, or spells none. -/
theorem Dest.ofCell_cases (cfg : Config) (c : Cell) :
    (∃ r : Reg, c.toNat = r.code ∧ Dest.ofCell cfg c = .code r) ∨
      (∃ r : Reg, c.toNat = cfg.regBase + r.code ∧ Dest.ofCell cfg c = .window r) ∨
      (13 ≤ c.toNat ∧ cfg.inWindow c = false ∧ Dest.ofCell cfg c = .noReg c) := by
  by_cases hc : c.toNat < 13
  · obtain ⟨r, hr⟩ := Reg.exists_code hc
    exact .inl ⟨r, hr, Dest.ofCell_of_code cfg hr⟩
  · have hbase : 13 ≤ c.toNat := Nat.not_lt.mp hc
    cases hw : cfg.inWindow c with
    | true =>
      obtain ⟨r, hr⟩ := (cfg.inWindow_iff_exists c).mp hw
      exact .inr (.inl ⟨r, hr, Dest.ofCell_of_window hbase hr⟩)
    | false => exact .inr (.inr ⟨hbase, rfl, Dest.ofCell_of_noReg hbase hw⟩)

/-- The window lies above the register codes. -/
theorem Config.window_above_codes {cfg : Config} (h : cfg.wellFormed = true) (n : Nat) : 13 ≤ cfg.regBase + n := by
  obtain ⟨-, -, -, -, hbase, -, -⟩ := Config.source_values h
  omega

theorem Dest.ofCell_toCell {cfg : Config} (h : cfg.wellFormed = true) {d : Dest} (hd : d.wellFormed cfg = true) :
    Dest.ofCell cfg (d.toCell cfg) = d := by
  cases d with
  | code r => exact Dest.ofCell_of_code cfg r.codeCell_toNat
  | window r =>
    have hr := Config.windowCell_toNat h r
    exact Dest.ofCell_of_window (hr ▸ Config.window_above_codes h r.code) hr
  | noReg c =>
    simp only [Dest.wellFormed, Bool.and_eq_true, decide_eq_true_eq, Bool.not_eq_true'] at hd
    obtain ⟨⟨-, hbase⟩, hw⟩ := hd
    exact Dest.ofCell_of_noReg hbase hw

theorem Dest.toCell_isCell {cfg : Config} (h : cfg.wellFormed = true) {d : Dest} (hd : d.wellFormed cfg = true) :
    cfg.isCell (d.toCell cfg) = true := by
  cases d with
  | code r => exact Reg.codeCell_isCell h r
  | window r => exact Config.windowCell_isCell h r
  | noReg c =>
    simp only [Dest.wellFormed, Bool.and_eq_true] at hd
    exact hd.1.1

theorem Dest.toCell_ofCell (cfg : Config) (c : Cell) : (Dest.ofCell cfg c).toCell cfg = c := by
  rcases Dest.ofCell_cases cfg c with ⟨r, hr, e⟩ | ⟨r, hr, e⟩ | ⟨-, -, e⟩ <;> rw [e]
  · exact Cell.ofNat_of_toNat hr
  · exact Cell.ofNat_of_toNat hr
  · rfl

theorem Dest.ofCell_wellFormed {cfg : Config} {c : Cell} (h : cfg.isCell c = true) :
    (Dest.ofCell cfg c).wellFormed cfg = true := by
  rcases Dest.ofCell_cases cfg c with ⟨r, -, e⟩ | ⟨r, -, e⟩ | ⟨hbase, hw, e⟩ <;> rw [e]
  · rfl
  · rfl
  · simp [Dest.wellFormed, h, hw, show Config.nregs ≤ c.toNat from hbase]

/-! ### mov modes (30_encoding.md R101) -/

theorem Mode.ofCell_toCell {cfg : Config} {m : Mode} (hm : m.wellFormed cfg = true) :
    Mode.ofCell cfg (m.toCell cfg) = m := by
  cases m with
  | mode8 => exact if_pos rfl
  | mode16 =>
    have hne : cfg.movMode16 ≠ cfg.movMode8 := by simpa [Mode.wellFormed] using hm
    simp [Mode.ofCell, Mode.toCell, hne]
  | other c =>
    simp only [Mode.wellFormed, Bool.and_eq_true, decide_eq_true_eq] at hm
    obtain ⟨⟨-, h8⟩, h16⟩ := hm
    simp [Mode.ofCell, Mode.toCell, h8, h16]

theorem Mode.toCell_isCell {cfg : Config} (h : cfg.wellFormed = true) {m : Mode} (hm : m.wellFormed cfg = true) :
    cfg.isCell (m.toCell cfg) = true := by
  obtain ⟨-, hvalues, -⟩ := Config.width_bounds h
  cases m with
  | mode8 => exact (cfg.isCell_iff _).mpr (hvalues _ (by simp [Config.cellValues, Mode.toCell]))
  | mode16 => exact (cfg.isCell_iff _).mpr (hvalues _ (by simp [Config.cellValues, Mode.toCell]))
  | other c =>
    simp only [Mode.wellFormed, Bool.and_eq_true] at hm
    exact hm.1.1

theorem Mode.toCell_ofCell (cfg : Config) (c : Cell) : (Mode.ofCell cfg c).toCell cfg = c := by
  unfold Mode.ofCell
  split
  · next h8 => exact h8.symm
  · split
    · next h16 => exact h16.symm
    · rfl

theorem Mode.ofCell_wellFormed {cfg : Config} {c : Cell} (h : cfg.isCell c = true) :
    (Mode.ofCell cfg c).wellFormed cfg = true := by
  unfold Mode.ofCell
  split
  · rfl
  · next h8 =>
    split
    · next h16 => simpa [Mode.wellFormed, ← h16] using h8
    · next h16 => simp [Mode.wellFormed, h, h8, h16]

/-! ### From an instruction to its cells and back (30_encoding.md R90, R92, R105) -/

theorem decode_of_operands {cfg : Config} {c : Cell} {op : Opcode} {rest : List Cell} {i : Instr}
    (hop : decodeOpcode cfg c = some op) (hi : decodeOperands cfg op rest = some i) :
    decode cfg (c :: rest) = .ok i := by
  simp only [decode, hop, hi]

/-- The operand cells of a well-formed instruction fit cells, and are read back as its operands, whatever follows. -/
theorem decodeOperands_encodeOperands {cfg : Config} (h : cfg.wellFormed = true) {i : Instr}
    (hi : i.wellFormed cfg = true) (rest : List Cell) :
    (∀ c ∈ encodeOperands cfg i, cfg.isCell c = true) ∧
      decodeOperands cfg i.opcode (encodeOperands cfg i ++ rest) = some i := by
  cases i with
  | nop | hlt | uld | brk | secData | secText | secRom => exact ⟨List.forall_mem_nil _, rfl⟩
  | mov m d v =>
    simp only [Instr.wellFormed, Bool.and_eq_true] at hi
    obtain ⟨⟨hm, hd⟩, hv⟩ := hi
    simp [encodeOperands, decodeOperands, Instr.opcode, Mode.toCell_isCell h hm, Dest.toCell_isCell h hd,
      Value.toCell_isCell h hv, Mode.ofCell_toCell hm, Dest.ofCell_toCell h hd, Value.ofCell_toCell h hv]
  | int c | jmp c | jz c | jnz c =>
    have hc : cfg.isCell c = true := hi
    simp [encodeOperands, decodeOperands, Instr.opcode, hc]
  | inc d | dec d =>
    have hd : d.wellFormed cfg = true := hi
    simp [encodeOperands, decodeOperands, Instr.opcode, Dest.toCell_isCell h hd, Dest.ofCell_toCell h hd]
  | add v w | sub v w | mul v w | div v w | and v w =>
    simp only [Instr.wellFormed, Bool.and_eq_true] at hi
    obtain ⟨hv, hw⟩ := hi
    simp [encodeOperands, decodeOperands, Instr.opcode, Value.toCell_isCell h hv, Value.toCell_isCell h hw,
      Value.ofCell_toCell h hv, Value.ofCell_toCell h hw]
  | je v a | jne v a =>
    simp only [Instr.wellFormed, Bool.and_eq_true] at hi
    obtain ⟨hv, ha⟩ := hi
    simp [encodeOperands, decodeOperands, Instr.opcode, Value.toCell_isCell h hv, Value.ofCell_toCell h hv, ha]

/-- Settles O2: the opcode cell is read as its row, and the row reads the operand cells back. -/
theorem encodeThenDecode : Obligations.EncodeThenDecode := by
  intro cfg i rest h hi
  obtain ⟨hcells, hoperands⟩ := decodeOperands_encodeOperands h hi rest
  exact ⟨List.forall_mem_cons.mpr ⟨Opcode.value_isCell h i.opcode, hcells⟩,
    decode_of_operands (decodeOpcode_of_value h i.opcode) hoperands⟩

/-! ### From cells to an instruction and back (30_encoding.md R91, R94, R105) -/

/-- A row with enough operand cells, whatever they hold, reads an instruction of its own. -/
theorem decodeOperands_of_enough (cfg : Config) {op : Opcode} {rest : List Cell} (h : op.operands ≤ rest.length) :
    ∃ i, decodeOperands cfg op rest = some i ∧ i.opcode = op ∧ encodeOperands cfg i = rest.take op.operands := by
  cases op with
  | nop | hlt | uld | brk | secData | secText | secRom => exact ⟨_, rfl, rfl, rfl⟩
  | int | jmp | jz | jnz =>
    match rest, h with
    | _ :: _, _ => exact ⟨_, rfl, rfl, rfl⟩
  | inc | dec =>
    match rest, h with
    | c :: _, _ => exact ⟨_, rfl, rfl, by simp [encodeOperands, Opcode.operands, Dest.toCell_ofCell]⟩
  | add | sub | mul | div | and | je | jne =>
    match rest, h with
    | _ :: _ :: _, _ => exact ⟨_, rfl, rfl, by simp [encodeOperands, Opcode.operands, Value.toCell_ofCell]⟩
  | mov =>
    match rest, h with
    | _ :: _ :: _ :: _, _ =>
      exact ⟨_, rfl, rfl, by
        simp [encodeOperands, Opcode.operands, Mode.toCell_ofCell, Dest.toCell_ofCell, Value.toCell_ofCell]⟩

/-- What a row reads from cells that fit is well-formed. -/
theorem decodeOperands_wellFormed {cfg : Config} {op : Opcode} {rest : List Cell} {i : Instr}
    (hcells : ∀ c ∈ rest, cfg.isCell c = true) (h : decodeOperands cfg op rest = some i) :
    i.wellFormed cfg = true := by
  cases op with
  | nop | hlt | uld | brk | secData | secText | secRom =>
    cases h
    rfl
  | int | jmp | jz | jnz =>
    match rest, h with
    | c :: _, h =>
      cases h
      exact hcells c (by simp)
  | inc | dec =>
    match rest, h with
    | d :: _, h =>
      cases h
      exact Dest.ofCell_wellFormed (hcells d (by simp))
  | add | sub | mul | div | and =>
    match rest, h with
    | p :: q :: _, h =>
      cases h
      exact Bool.and_eq_true_iff.mpr
        ⟨Value.ofCell_wellFormed (hcells p (by simp)), Value.ofCell_wellFormed (hcells q (by simp))⟩
  | je | jne =>
    match rest, h with
    | p :: a :: _, h =>
      cases h
      exact Bool.and_eq_true_iff.mpr ⟨Value.ofCell_wellFormed (hcells p (by simp)), hcells a (by simp)⟩
  | mov =>
    match rest, h with
    | m :: d :: v :: _, h =>
      cases h
      simp only [Instr.wellFormed, Bool.and_eq_true]
      exact ⟨⟨Mode.ofCell_wellFormed (hcells m (by simp)), Dest.ofCell_wellFormed (hcells d (by simp))⟩,
        Value.ofCell_wellFormed (hcells v (by simp))⟩

/-- What decodes was read by the row of its first cell from the cells after it. -/
theorem decode_ok {cfg : Config} {cells : List Cell} {i : Instr} (h : decode cfg cells = .ok i) :
    ∃ c op rest, cells = c :: rest ∧ decodeOpcode cfg c = some op ∧ decodeOperands cfg op rest = some i := by
  unfold decode at h
  split at h
  · cases h
  · next c rest =>
    split at h
    · cases h
    · next op hop =>
      split at h
      · cases h
      · next j hj =>
        cases h
        exact ⟨c, op, rest, rfl, hop, hj⟩

/-- An instruction is read from as many cells as its row has operands, and encodes to them. -/
theorem decodeOperands_some {cfg : Config} {op : Opcode} {rest : List Cell} {i : Instr}
    (h : decodeOperands cfg op rest = some i) :
    i.opcode = op ∧ op.operands ≤ rest.length ∧ encodeOperands cfg i = rest.take op.operands := by
  by_cases hlen : rest.length < op.operands
  · rw [Machine.decodeOperands_of_short cfg hlen] at h
    cases h
  · have henough := Nat.not_lt.mp hlen
    obtain ⟨j, hj, hop, henc⟩ := decodeOperands_of_enough cfg henough
    obtain rfl : j = i := by simpa [hj] using h
    exact ⟨hop, henough, henc⟩

/-- What decodes is no longer than the cells it was read from, and encodes to the first of them. -/
theorem encode_of_decode {cfg : Config} {cells : List Cell} {i : Instr} (h : decode cfg cells = .ok i) :
    i.length ≤ cells.length ∧ cells.take i.length = encode cfg i := by
  obtain ⟨c, op, rest, rfl, hop, hi⟩ := decode_ok h
  obtain ⟨rfl, hlen, henc⟩ := decodeOperands_some hi
  rw [Instr.length, Nat.add_comm 1, List.length_cons, List.take_succ_cons, encode, henc, decodeOpcode_value hop]
  exact ⟨Nat.succ_le_succ hlen, rfl⟩

theorem wellFormed_of_decode {cfg : Config} {cells : List Cell} {i : Instr}
    (hcells : ∀ c ∈ cells, cfg.isCell c = true) (h : decode cfg cells = .ok i) : i.wellFormed cfg = true := by
  obtain ⟨c, op, rest, rfl, -, hi⟩ := decode_ok h
  exact decodeOperands_wellFormed (fun d hd => hcells d (List.mem_cons_of_mem c hd)) hi

/-- Settles O3: by the row of the first cell, whose operand kinds each keep the cell they were read from. -/
theorem decodeThenEncode : Obligations.DecodeThenEncode := by
  intro cfg cells i hcells h
  exact ⟨wellFormed_of_decode hcells h, encode_of_decode h⟩

/-- Settles O6: with too few operand cells the row reads nothing, with enough it reads an instruction of its own. -/
theorem opcodeCellFixesLength : Obligations.OpcodeCellFixesLength := by
  refine fun cfg c op rest hop => ⟨fun hshort => ?_, fun henough => ?_⟩
  · simp only [decode, hop, Machine.decodeOperands_of_short cfg hshort]
  · obtain ⟨i, hi, rfl, -⟩ := decodeOperands_of_enough cfg henough
    exact ⟨i, decode_of_operands hop hi, rfl, rfl⟩

/-- Settles O4, by evaluation of the decoder on each of the nine. -/
theorem writtenOutCellsDecode : Obligations.WrittenOutCellsDecode :=
  ⟨rfl, rfl, rfl, rfl, rfl, rfl, rfl, rfl, rfl⟩

/-! ### Unassigned cell values (30_encoding.md R104) -/

theorem decode_eq_unrecognized_iff {cfg : Config} {c : Cell} {rest : List Cell} :
    decode cfg (c :: rest) = .error (.unrecognized c) ↔ ∀ op : Opcode, op.value cfg ≠ c := by
  rw [← decodeOpcode_none]
  cases hop : decodeOpcode cfg c with
  | none => simp [decode, hop]
  | some op => cases hi : decodeOperands cfg op rest <;> simp [decode, hop, hi]

/-- The numbers that are opcodes or sentinels under the default parameters. -/
def AssignedByDefault (n : Nat) : Prop := n ≤ 0x10 ∨ n = 0xCC ∨ (0xFD ≤ n ∧ n ≤ 0xFF)

theorem Opcode.value_default_assigned (op : Opcode) : AssignedByDefault (op.value Config.default).toNat := by
  cases op <;> simp [AssignedByDefault, Opcode.value, Config.default]

theorem Opcode.exists_value_default {n : Nat} (h : AssignedByDefault n) :
    ∃ op : Opcode, (op.value Config.default).toNat = n := by
  have hlow : ∀ n ≤ 0x10, ∃ op ∈ Opcode.all, (op.value Config.default).toNat = n := by decide
  rcases h with h | rfl | ⟨hlo, hhi⟩
  · obtain ⟨op, -, hop⟩ := hlow n h
    exact ⟨op, hop⟩
  · exact ⟨.brk, rfl⟩
  · obtain rfl | rfl | rfl : n = 0xFD ∨ n = 0xFE ∨ n = 0xFF := by omega
    · exact ⟨.secData, rfl⟩
    · exact ⟨.secRom, rfl⟩
    · exact ⟨.secText, rfl⟩

/-- Settles O5: the rows take up exactly the assigned numbers, and the three ranges are the others. -/
theorem unassignedCellsAreUnrecognized : Obligations.UnassignedCellsAreUnrecognized := by
  intro c rest
  have hranges : ¬ AssignedByDefault c.toNat ↔
      (0x11 ≤ c.toNat ∧ c.toNat ≤ 0xCB) ∨ (0xCD ≤ c.toNat ∧ c.toNat ≤ 0xFC) ∨ 0x100 ≤ c.toNat := by
    unfold AssignedByDefault
    omega
  rw [decode_eq_unrecognized_iff, ← hranges]
  constructor
  · intro hnone hassigned
    obtain ⟨op, hop⟩ := Opcode.exists_value_default hassigned
    exact hnone op (BitVec.eq_of_toNat_eq hop)
  · rintro hfree op rfl
    exact hfree op.value_default_assigned

/-! ### What an operand cell selects when the instruction runs -/

/-- Settles O7: by whether the cell lies in the window. -/
theorem valueCellResolves : Obligations.ValueCellResolves := by
  refine fun s c => ⟨fun r hr => ?_, fun hnone => ?_⟩
  · rw [Value.ofCell_of_window hr]
    rfl
  · have hw : s.cfg.inWindow c = false := by
      rw [← Bool.not_eq_true, Config.inWindow_iff_exists]
      exact fun ⟨r, hr⟩ => hnone r hr
    rw [Value.ofCell_of_literal hw, Machine.resolve, zextCell, BitVec.setWidth_eq]

/-- Settles O8: by the spelling of the cell; the window lies above the codes, so that no cell has two. -/
theorem designatorCellSelects : Obligations.DesignatorCellSelects := by
  refine fun cfg c h => ⟨fun r hr => ?_, fun hnone => ?_⟩
  · rcases hr with hr | hr
    · rw [Dest.ofCell_of_code cfg hr]
      rfl
    · rw [Dest.ofCell_of_window (hr ▸ Config.window_above_codes h r.code) hr]
      rfl
  · rcases Dest.ofCell_cases cfg c with ⟨r, hr, -⟩ | ⟨r, hr, -⟩ | ⟨-, -, e⟩
    · exact absurd hr (hnone r).1
    · exact absurd hr (hnone r).2
    · rw [e]
      rfl

end Sys2Proof
end

section
/-! The families 41_basic.md, 43_int.md, 46_uld.md and 70_reset_and_hazards.md: the instructions without operand cells,
the codes and the syscalls of int, and the state after construction and after a restart. -/

namespace Sys2Proof.Machine

/-! ### Construction and fresh states (60_exceptions.md R283, 70_reset_and_hazards.md R310, R312) -/

/-- Settles O1, by evaluation of the state at reset. -/
theorem resetIsTheConstructedMachine : Obligations.ResetIsTheConstructedMachine :=
  ⟨RegFile.zero_read, rfl, rfl, rfl, rfl, rfl, fun _ => rfl, rfl, rfl, rfl, rfl, rfl⟩

/-- Memory made from the part of an image that fits holds that part and zeros. -/
theorem Memory.read_ofImage_take (image : List Cell) (size a : Nat) :
    Memory.read (Memory.ofImage (image.take size) 0) a = if a < size then (image[a]?).getD 0 else 0 := by
  rw [Memory.read_ofImage, if_pos (Nat.zero_le a), Nat.sub_zero, List.getElem?_take]
  split <;> rfl

theorem fresh_freshState (image : List Cell) (run : RunState) (s : State) : Fresh image s (freshState image run s) :=
  ⟨Memory.read_ofImage_take image s.cfg.memSize, RegFile.zero_read, rfl, rfl, rfl, rfl, rfl, rfl, rfl, rfl, rfl⟩

/-! ### nop, hlt and the breakpoint, div by zero and the sentinels -/

/-- Settles O18: the divisor's signed reading is 0 too. -/
theorem divByZeroFaults : Obligations.DivByZeroFaults := by
  intro s v w hw
  exact ⟨_, if_pos ((sint_eq_zero_iff _).mpr hw), rfl, rfl, onlyPcAndRun_withRun s 3 _⟩

/-- An engine that is not Running stands still. -/
theorem engineTurn_of_not_running {s : State} (h : s.run ≠ .running) : engineTurn s = .next s := by
  unfold engineTurn
  split
  · next hrun => exact absurd hrun h
  all_goals rfl

/-- Settles O10: the halted engine is one that stands still. -/
theorem hltHalts : Obligations.HltHalts := by
  refine ⟨fun _ => rfl, fun s => ⟨halt (s.advance 1), rfl, rfl, rfl, onlyPcAndRun_withRun s 1 _, fun hschedule => ?_⟩⟩
  rw [step_of_nil hschedule]
  exact engineTurn_of_not_running (s := halt (s.advance 1)) (by simp)

/-- The host's Ack of a suspension that ends its iteration. -/
theorem step_ack_nextIteration {s : State} {rest : List Turn} {cause : AckCause}
    (hschedule : s.schedule = .host .ack :: rest) (hrun : s.run = .awaitAck cause .nextIteration) :
    step s = .next ((s.withSchedule rest).withRun .running) := by
  rw [step_of_host hschedule]
  simp [hostTurn, hostAllowed, hostAck, endSuspension, hrun]

/-- Settles O11: the suspension leaves pc past the cell, and the Ack goes on from there. -/
theorem brkSuspends : Obligations.BrkSuspends := by
  intro s
  refine ⟨(s.advance 1).withRun (.awaitAck .breakpoint .nextIteration), rfl, rfl, rfl, onlyPcAndRun_withRun s 1 _,
    fun rest => ⟨_, step_ack_nextIteration (cause := .breakpoint) (rest := rest) rfl rfl, ?_⟩⟩
  exact ⟨rfl, rfl⟩

theorem onlyPcAndSection_withSect (s : State) (n : Nat) (v : Section) :
    OnlyPcAndSection s ((s.advance n).withSect v) :=
  ⟨regsSameBut_of_eq [] rfl, memSame_of_eq rfl, ⟨rfl, rfl⟩, rfl, rfl, rfl, rfl, rfl, rfl⟩

/-! ### uld (46_uld.md R260) -/

/-- Settles O21: the premise is the one under which uld clears the whole window. -/
theorem uldClearsPopulatedWindow : Obligations.UldClearsPopulatedWindow := by
  intro s hwindow
  have hexist := (cellsExist_iff s s.cfg.varLoc s.dataIndex.toNat).mpr hwindow
  rcases execUld_cases s with ⟨-, e⟩ | ⟨hnot, -⟩
  · refine ⟨_, e, rfl, rfl, rfl, regsSameBut_of_eq [] rfl, ⟨rfl, rfl, rfl, rfl, rfl⟩, ⟨rfl, rfl⟩, fun i hi => ?_,
      fun a ha => ?_⟩
    · rw [State.withDataIndex_mem, State.withMem_mem, Memory.read_clearRange, if_pos (by omega)]
    · rw [State.withDataIndex_mem, State.withMem_mem, Memory.read_clearRange, if_neg]
      exact fun ⟨hlo, hhi⟩ => ha ⟨a - s.cfg.varLoc, by omega, by omega⟩
  · rw [hexist] at hnot
    cases hnot

/-! ### Unrecognized and data cells (40_cycle.md R136 to R138) -/

theorem suppressed_iff (s : State) (a : Addr) :
    s.suppressed a = true ↔ a.toNat = s.cfg.intLoc
      ∨ (s.cfg.varLoc ≤ a.toNat ∧ a.toNat < s.cfg.varLoc + s.dataIndex.toNat) := by
  simp [State.suppressed]

theorem reportedOrSkipped_unrecognized (c : Cell) (s : State) : ReportedOrSkipped c s (unrecognized c s) := by
  rcases unrecognized_cases c s with ⟨hsup, e⟩ | ⟨hsup, e⟩ <;> rw [e]
  · exact ⟨rfl, regsSameBut_of_eq [] rfl, memSame_of_eq rfl, ⟨rfl, rfl, rfl, rfl, rfl⟩, rfl, rfl, rfl,
      (if_pos ((suppressed_iff s s.pc).mp hsup)).symm⟩
  · have hnot := mt (suppressed_iff s s.pc).mpr (Bool.eq_false_iff.mp hsup)
    exact ⟨rfl, regsSameBut_of_eq [] rfl, memSame_of_eq rfl, ⟨rfl, rfl, rfl, rfl, rfl⟩, rfl, rfl, rfl,
      (if_neg hnot).symm⟩

/-- The premises exclude each other, so that each case of a data cell meets its own clause. -/
theorem copiedToWindow_dataCell (c : Cell) (s : State) : CopiedToWindow c s (dataCell c s) := by
  rcases dataCell_cases c s with ⟨hzero, e⟩ | ⟨hne, hlt, e⟩ | ⟨hne, hge, e⟩ <;> rw [e]
  · exact ⟨rfl, regsSameBut_of_eq [] rfl, ⟨rfl, rfl, rfl, rfl, rfl⟩, ⟨rfl, rfl⟩,
      fun _ => ⟨memSame_of_eq rfl, rfl, rfl⟩, fun hne => absurd hzero hne, fun hne => absurd hzero hne⟩
  · refine ⟨rfl, regsSameBut_of_eq [] rfl, ⟨rfl, rfl, rfl, rfl, rfl⟩, ⟨rfl, rfl⟩, fun hzero => absurd hzero hne,
      fun _ _ => ⟨?_, fun a ha => ?_, rfl, rfl⟩, fun _ hge => absurd hlt (Nat.not_lt.mpr hge)⟩
    · rw [State.withDataIndex_mem, State.withMem_mem, Memory.read_write, if_pos rfl, State.trimCell_toNat]
    · rw [State.withDataIndex_mem, State.withMem_mem, Memory.read_write, if_neg ha]
  · exact ⟨rfl, regsSameBut_of_eq [] rfl, ⟨rfl, rfl, rfl, rfl, rfl⟩, ⟨rfl, rfl⟩, fun hzero => absurd hzero hne,
      fun _ hlt => absurd hlt (Nat.not_lt.mpr hge), fun _ _ => ⟨memSame_of_eq rfl, rfl, rfl⟩⟩

theorem exec_secRom_of_text {s : State} (h : s.sect = .text) :
    exec .secRom s = .next (unrecognized s.cfg.secRom s) := by
  simp only [exec, execSecRom, h]

theorem exec_secRom_of_data {s : State} (h : s.sect = .data) : exec .secRom s = .next (dataCell s.cfg.secRom s) := by
  simp only [exec, execSecRom, h]

/-- Settles O23: in each section the reserved sentinel has the meaning of the cells that are no sentinel. -/
theorem romIsNoSentinel : Obligations.RomIsNoSentinel := by
  refine fun s => ⟨fun htext => ?_, fun hdata => ?_⟩
  · exact ⟨_, exec_secRom_of_text htext, reportedOrSkipped_unrecognized _ s⟩
  · exact ⟨_, exec_secRom_of_data hdata, copiedToWindow_dataCell _ s⟩

/-! ### The dispatch of int (60_exceptions.md R276) -/

/-- The dispatch of a stored code does not touch what the store shows, unless it restarts. -/
theorem IntStored.withRun {c : Cell} {s t : State} (h : IntStored c s t) (k : RunState) :
    IntStored c s (t.withRun k) := h

theorem IntStored.emitDisplay {c : Cell} {s t : State} (h : IntStored c s t) (e : DisplayEvent) :
    IntStored c s (t.emitDisplay e) := h

theorem exec_int_without_cell {s : State} (h : s.cfg.memSize ≤ s.cfg.intLoc) (c : Cell) :
    exec (.int c) s = .next ((s.advance 2).withRun (.faulted .outOfMemory)) := by
  rcases execInt_cases c s with ⟨hlt, -⟩ | ⟨-, e⟩
  · omega
  · exact e

/-- Settles O27: the store of the code is what faults. -/
theorem intWithoutCellFaults : Obligations.IntWithoutCellFaults :=
  fun s c h => ⟨_, exec_int_without_cell h c, rfl, rfl, onlyPcAndRun_withRun s 2 _⟩

section
variable {c : Cell} {s : State} (a : Addr)

theorem intDispatch_of_syscall (h : c = s.cfg.syscallCode) : intDispatch c a s = syscall s := if_pos h

theorem intDispatch_of_singleStep (hsys : c ≠ s.cfg.syscallCode) (h : c = s.cfg.intSingleStep) :
    intDispatch c a s = s.withRun (.awaitAck .singleStep .nextIteration) := by
  rw [intDispatch, if_neg hsys, if_pos h, takeEvent_suspend]

theorem intDispatch_of_breakpoint (hsys : c ≠ s.cfg.syscallCode) (hstep : c ≠ s.cfg.intSingleStep)
    (h : c = s.cfg.intBreakpoint) : intDispatch c a s = s.withRun (.awaitAck .breakpoint .nextIteration) := by
  rw [intDispatch, if_neg hsys, if_neg hstep, if_pos h, takeEvent_suspend]

theorem intDispatch_of_doubleFault (hsys : c ≠ s.cfg.syscallCode) (hstep : c ≠ s.cfg.intSingleStep)
    (hbrk : c ≠ s.cfg.intBreakpoint) (h : c = s.cfg.intDoubleFault) :
    intDispatch c a s = s.withRun (.faulted .doubleFault) := by
  rw [intDispatch, if_neg hsys, if_neg hstep, if_neg hbrk, if_pos h, takeEvent_fault]

theorem intDispatch_of_outOfMemory (hsys : c ≠ s.cfg.syscallCode) (hstep : c ≠ s.cfg.intSingleStep)
    (hbrk : c ≠ s.cfg.intBreakpoint) (hdouble : c ≠ s.cfg.intDoubleFault) (h : c = s.cfg.intOutOfMemory) :
    intDispatch c a s = s.withRun (.faulted .outOfMemory) := by
  rw [intDispatch, if_neg hsys, if_neg hstep, if_neg hbrk, if_neg hdouble, if_pos h, takeEvent_fault]

end

/-- int of a code whose dispatch changes the run state alone. -/
theorem exec_int_of_dispatch_withRun {c : Cell} {s : State} {k : RunState} (hcell : s.cfg.intLoc < s.cfg.memSize)
    (h : intDispatch c s.pc (storedCode c s) = (storedCode c s).withRun k) :
    ∃ t, exec (.int c) s = .next t ∧ IntStored c s t ∧ PortsSame s t ∧ t.run = k :=
  ⟨_, (exec_int_of_cell hcell c).trans (congrArg _ h), (intStored_storedCode c s).withRun k, ⟨rfl, rfl⟩, rfl⟩

/-- Settles O25: by the code, in the order of the dispatch. -/
theorem intSuspends : Obligations.IntSuspends := by
  refine fun s c hcell hsys => ⟨fun hstep => ?_, fun hstep hbrk => ?_⟩
  · exact exec_int_of_dispatch_withRun hcell (intDispatch_of_singleStep (s := storedCode c s) _ hsys hstep)
  · exact exec_int_of_dispatch_withRun hcell (intDispatch_of_breakpoint (s := storedCode c s) _ hsys hstep hbrk)

/-- Settles O26: by the code, in the order of the dispatch. -/
theorem intRaisesTerminalFaults : Obligations.IntRaisesTerminalFaults := by
  refine fun s c hcell hsys hstep hbrk => ⟨fun hdouble => ?_, fun hdouble hmem => ?_⟩
  · exact exec_int_of_dispatch_withRun hcell
      (intDispatch_of_doubleFault (s := storedCode c s) _ hsys hstep hbrk hdouble)
  · exact exec_int_of_dispatch_withRun hcell
      (intDispatch_of_outOfMemory (s := storedCode c s) _ hsys hstep hbrk hdouble hmem)

/-! ### The syscall dispatcher (43_int.md R181 to R188) -/

theorem exec_int_syscall {s : State} (hcell : s.cfg.intLoc < s.cfg.memSize) :
    exec (.int s.cfg.syscallCode) s = .next (syscall (storedCode s.cfg.syscallCode s)) :=
  (exec_int_of_cell hcell _).trans (congrArg _ (intDispatch_of_syscall (s := storedCode _ s) s.pc rfl))

theorem syscall_of_restart {s : State} (h : s.readReg .eax = s.cfg.sysRestart) : syscall s = restartSyscall s :=
  if_pos h

theorem syscall_of_write {s : State} (h : s.readReg .eax = s.cfg.sysWrite)
    (hne : s.cfg.sysWrite ≠ s.cfg.sysRestart) :
    (s.readReg .ebx = 1 → syscall s = writeText s) ∧ (s.readReg .ebx = 2 → syscall s = writeClear s)
      ∧ (s.readReg .ebx = 3 → syscall s = writePixel s) ∧ (s.readReg .ebx = 4 → syscall s = writeColor s) := by
  refine ⟨fun hsub => ?_, fun hsub => ?_, fun hsub => ?_, fun hsub => ?_⟩
  all_goals simp [syscall, h, hne, hsub]

theorem syscall_of_other {s : State} (hrestart : s.readReg .eax ≠ s.cfg.sysRestart)
    (hwrite : ¬ (s.readReg .eax = s.cfg.sysWrite ∧ s.readReg .ebx ∈ [(1 : Word), 2, 3, 4])) : syscall s = s := by
  rw [syscall, if_neg hrestart]
  split
  · next heax =>
    have hsub : s.readReg .ebx ∉ [(1 : Word), 2, 3, 4] := fun hmem => hwrite ⟨heax, hmem⟩
    simp only [List.mem_cons, List.not_mem_nil, or_false, not_or] at hsub
    obtain ⟨h1, h2, h3, h4⟩ := hsub
    rw [if_neg h1, if_neg h2, if_neg h3, if_neg h4]
  · rfl

/-- Settles O28: the restart rebuilds the state from the retained image, which the store of the code did not touch. -/
theorem restartSyscallReloads : Obligations.RestartSyscallReloads := by
  intro s hcell heax
  refine ⟨_, (exec_int_syscall hcell).trans (congrArg _ (syscall_of_restart (s := storedCode _ s) heax)), ?_, rfl, rfl,
    rfl, rfl, ?_⟩
  · exact fresh_freshState s.m0 .running (storedCode s.cfg.syscallCode s)
  · exact List.append_assoc s.display [.clear 0] [.resetScroll]

theorem exec_int_writeText {s : State} (hcell : s.cfg.intLoc < s.cfg.memSize) (heax : s.readReg .eax = s.cfg.sysWrite)
    (hne : s.cfg.sysWrite ≠ s.cfg.sysRestart) (hsub : s.readReg .ebx = 1) :
    exec (.int s.cfg.syscallCode) s = .next (writeText (storedCode s.cfg.syscallCode s)) :=
  (exec_int_syscall hcell).trans (congrArg _ ((syscall_of_write (s := storedCode _ s) heax hne).1 hsub))

/-- Settles O29: by whether the cells of the text exist. -/
theorem writeTextSyscall : Obligations.WriteTextSyscall := by
  intro s hcell heax hne hsub
  have hexec := exec_int_writeText hcell heax hne hsub
  have hstored := intStored_storedCode s.cfg.syscallCode s
  have hexist := cellsExist_iff (storedCode s.cfg.syscallCode s) s.cfg.varLoc (s.readReg .ecx).toNat
  rcases writeText_cases (storedCode s.cfg.syscallCode s) with ⟨hyes, e⟩ | ⟨hno, e⟩
  · refine ⟨fun _ => ⟨_, Memory.readRange (storedCode _ s).mem s.cfg.varLoc (s.readReg .ecx).toNat,
      hexec.trans (congrArg _ e), hstored.emitDisplay _, rfl, rfl, rfl, Memory.readRange_length _ _ _,
      fun i hi => ?_⟩, fun hlen hend => ?_⟩
    · rw [List.getElem?_eq_getElem hi, Memory.readRange_getElem]
      rfl
    · exact absurd (hexist.mp hyes) (not_or.mpr ⟨hlen, Nat.not_le.mpr hend⟩)
  · refine ⟨fun hroom => ?_, fun _ _ => ⟨_, hexec.trans (congrArg _ e), hstored.withRun _, ⟨rfl, rfl⟩, rfl⟩⟩
    exact absurd (hexist.mpr hroom) (Bool.eq_false_iff.mp hno)

theorem colorOperand_toNat (s : State) : (colorOperand s).toNat = (s.readReg .ecx).toNat % 16 := by
  rw [colorOperand, BitVec.toNat_setWidth]

/-- Each drawing subcode emits its own event. -/
theorem syscall_of_drawing {s : State} (heax : s.readReg .eax = s.cfg.sysWrite)
    (hne : s.cfg.sysWrite ≠ s.cfg.sysRestart)
    (hsub : s.readReg .ebx = 2 ∨ s.readReg .ebx = 3 ∨ s.readReg .ebx = 4) :
    ∃ e, syscall s = s.emitDisplay e ∧ (s.readReg .ebx = 2 → e = .clear (colorOperand s))
      ∧ (s.readReg .ebx = 3 → e = .plotPixel s.regs.ax s.regs.bx (colorOperand s))
      ∧ (s.readReg .ebx = 4 → e = .setColor (colorOperand s)) := by
  obtain ⟨-, hclear, hpixel, hcolor⟩ := syscall_of_write heax hne
  rcases hsub with h | h | h
  · exact ⟨_, hclear h, by simp [h]⟩
  · exact ⟨_, hpixel h, by simp [h]⟩
  · exact ⟨_, hcolor h, by simp [h]⟩

/-- Settles O30: the one event is appended to what the display port held before the int. -/
theorem drawingSyscalls : Obligations.DrawingSyscalls := by
  intro s hcell heax hne hsub
  obtain ⟨e, he, hclear, hpixel, hcolor⟩ := syscall_of_drawing (s := storedCode s.cfg.syscallCode s) heax hne hsub
  exact ⟨_, colorOperand s, (exec_int_syscall hcell).trans (congrArg _ he),
    (intStored_storedCode _ s).emitDisplay e, rfl, rfl, colorOperand_toNat s,
    fun h => congrArg (s.display ++ [·]) (hclear h), fun h => congrArg (s.display ++ [·]) (hpixel h),
    fun h => congrArg (s.display ++ [·]) (hcolor h)⟩

/-- Settles O31: the dispatcher answers the state it was given. -/
theorem otherSyscallsDoNothing : Obligations.OtherSyscallsDoNothing := by
  intro s hcell hrestart hwrite
  have hnothing := syscall_of_other (s := storedCode s.cfg.syscallCode s) hrestart hwrite
  exact ⟨_, (exec_int_syscall hcell).trans (congrArg _ hnothing), intStored_storedCode _ s, ⟨rfl, rfl⟩, rfl⟩

end Sys2Proof.Machine
end

section
/-! The families 40_cycle.md and 00_scope.md section 4: the tests before the fetch (R130, R132 to R134), what the
instruction position does with the cells at pc (R135 to R139), and the host operations (R4). -/

namespace Sys2Proof.Machine

/-! ### The tests before the fetch (40_cycle.md R130, R132 to R134) -/

theorem engineTurn_of_running {s : State} (h : s.run = .running) : engineTurn s = iteration s := by
  rw [engineTurn, h]

theorem iteration_of_exhausted {s : State} (h : s.cfg.memSize ≤ s.pc.toNat) : iteration s = .next (halt s) :=
  if_pos h

theorem iteration_of_trap {s : State} (hpc : s.pc.toNat < s.cfg.memSize) (ht : s.flags.t = true) :
    iteration s = .next (s.withRun (.awaitAck .singleStep .afterTrapCheck)) := by
  rw [iteration, if_neg (Nat.not_le.mpr hpc), if_pos ht, takeEvent_suspend]

theorem iteration_of_no_trap {s : State} (hpc : s.pc.toNat < s.cfg.memSize) (ht : s.flags.t = false) :
    iteration s = continueIteration s := by
  rw [iteration, if_neg (Nat.not_le.mpr hpc), if_neg (Bool.eq_false_iff.mp ht)]

theorem continueIteration_of_restart {s : State} (h : s.flags.r = true) :
    continueIteration s = .next (doRestart s) := if_pos h

theorem continueIteration_of_no_restart {s : State} (h : s.flags.r = false) :
    continueIteration s = instructionPosition s := if_neg (Bool.eq_false_iff.mp h)

theorem engineTurn_of_ready {s : State} (hrun : s.run = .running) (hpc : s.pc.toNat < s.cfg.memSize)
    (ht : s.flags.t = false) (hr : s.flags.r = false) : engineTurn s = instructionPosition s := by
  rw [engineTurn_of_running hrun, iteration_of_no_trap hpc ht, continueIteration_of_no_restart hr]

/-- Nothing but the run state changes where pc stays as well. -/
theorem onlyPcAndRun_withRun_self (s : State) (k : RunState) : OnlyPcAndRun s (s.withRun k) :=
  ⟨regsSameBut_of_eq [] rfl, memSame_of_eq rfl, ⟨rfl, rfl, rfl, rfl, rfl⟩, ⟨rfl, rfl⟩, rfl⟩

/-- Settles O34: the test of pc is the first of the iteration. -/
theorem pcExhaustionHalts : Obligations.PcExhaustionHalts := by
  intro s hschedule hrun hpc
  refine ⟨halt s, ?_, rfl, rfl, onlyPcAndRun_withRun_self s _⟩
  rw [step_of_nil hschedule, engineTurn_of_running hrun, iteration_of_exhausted hpc]

/-- Settles O35: the test of T comes before that of R. -/
theorem trapFlagSuspendsBeforeFetch : Obligations.TrapFlagSuspendsBeforeFetch := by
  intro s hschedule hrun hpc ht
  refine ⟨s.withRun (.awaitAck .singleStep .afterTrapCheck), ?_, rfl, rfl, onlyPcAndRun_withRun_self s _⟩
  rw [step_of_nil hschedule, engineTurn_of_running hrun, iteration_of_trap hpc ht]

/-- Settles O36: the test of R comes before the fetch. -/
theorem restartFlagRestarts : Obligations.RestartFlagRestarts := by
  intro s hschedule hrun hpc ht hr
  refine ⟨doRestart s, ?_, fresh_freshState s.m0 .running s, rfl, rfl, ⟨rfl, rfl⟩, hschedule⟩
  rw [step_of_nil hschedule, engineTurn_of_running hrun, iteration_of_no_trap hpc ht, continueIteration_of_restart hr]

/-! ### The cells fetched (40_cycle.md R131, 20_memory.md R77) -/

theorem fetchFrom_congr {s t : State} (hcfg : t.cfg = s.cfg) (hmem : t.mem = s.mem) (a n : Nat) :
    fetchFrom t a n = fetchFrom s a n := by
  induction n generalizing a with
  | zero => rfl
  | succ n ih => simp only [fetchFrom, hcfg, hmem, ih]

theorem fetchCells_congr {s t : State} (hcfg : t.cfg = s.cfg) (hmem : t.mem = s.mem) (hpc : t.pc = s.pc) :
    fetchCells t = fetchCells s := by
  rw [fetchCells, fetchCells, hpc, fetchFrom_congr hcfg hmem]

theorem length_le_maxLength (i : Instr) : i.length ≤ maxLength := by
  have hoperands : ∀ op : Opcode, 1 + op.operands ≤ maxLength := fun op => by cases op <;> decide
  exact hoperands i.opcode

/-- Where memory holds an instruction's cells from pc on, the fetch gives them, and perhaps cells after them. -/
theorem fetchCells_of_holdsFrom {s : State} {i : Instr} (h : HoldsFrom s s.pc.toNat (encode s.cfg i)) :
    ∃ rest, fetchCells s = encode s.cfg i ++ rest := by
  have hlength : (encode s.cfg i).length = i.length := by cases i <;> rfl
  have hmax : i.length ≤ 4 := length_le_maxLength i
  have hpos : 1 ≤ i.length := Nat.le_add_right 1 _
  obtain ⟨hend, -⟩ := h (i.length - 1) (by omega)
  obtain ⟨hfetched, hcells⟩ := fetchFrom_spec s s.pc.toNat maxLength
  have hfour : maxLength = 4 := rfl
  refine ⟨(fetchCells s).drop i.length, ?_⟩
  have htake : (fetchCells s).take i.length = encode s.cfg i := by
    refine List.ext_getElem ?_ fun j hj hj' => ?_
    · rw [List.length_take, fetchCells, hfetched]
      omega
    · rw [List.getElem_take, ← (h j hj').2]
      exact (hcells j (by omega)).2
  rw [← htake, List.take_append_drop]

/-! ### What the instruction position does (40_cycle.md R130, R135 to R139) -/

theorem isSentinel_iff (cfg : Config) (c : Cell) : isSentinel cfg c = true ↔ c = cfg.secData ∨ c = cfg.secText := by
  simp [isSentinel]

/-- The cell of an instruction that runs in the active section is no data cell. -/
theorem isData_of_runsInSection {s : State} {i : Instr} (h : RunsInSection i s) :
    isData s (i.opcode.value s.cfg) = false := by
  rcases h with htext | rfl | rfl
  · exact isData_of_text htext _
  · simp [isData, (isSentinel_iff s.cfg _).mpr (.inl rfl), Instr.opcode, Opcode.value]
  · simp [isData, (isSentinel_iff s.cfg _).mpr (.inr rfl), Instr.opcode, Opcode.value]

theorem instructionPosition_of_decode {s : State} {i : Instr} (hdecode : decode s.cfg (fetchCells s) = .ok i)
    (hsection : RunsInSection i s) : instructionPosition s = exec i s := by
  obtain ⟨c, op, rest, hcells, hop, hi⟩ := decode_ok hdecode
  obtain ⟨rfl, -, -⟩ := decodeOperands_some hi
  have hdata : isData s c = false := decodeOpcode_value hop ▸ isData_of_runsInSection hsection
  rw [hcells] at hdecode
  simp only [instructionPosition, hcells, hdata, hdecode, Bool.false_eq_true, ↓reduceIte]

theorem instructionPosition_of_data {s : State} (hpc : s.pc.toNat < s.cfg.memSize) (hdata : s.sect = .data)
    (hne : cellAtPc s ≠ s.cfg.secData) (hne' : cellAtPc s ≠ s.cfg.secText) :
    instructionPosition s = .next (dataCell (cellAtPc s) s) := by
  have hisData : isData s (cellAtPc s) = true := by simp [isData, isSentinel, hdata, hne, hne']
  simp only [instructionPosition, fetchCells_head hpc, hisData, ↓reduceIte]

theorem instructionPosition_of_unrecognized {s : State} (hpc : s.pc.toNat < s.cfg.memSize) (htext : s.sect = .text)
    (hnone : ∀ op : Opcode, op.value s.cfg ≠ cellAtPc s) :
    instructionPosition s = .next (unrecognized (cellAtPc s) s) := by
  simp only [instructionPosition, fetchCells_head hpc, isData_of_text htext, decode_eq_unrecognized_iff.mpr hnone,
    Bool.false_eq_true, ↓reduceIte]

theorem instructionPosition_of_missing_operands {s : State} {op : Opcode} (hwf : s.cfg.wellFormed = true)
    (hpc : s.pc.toNat < s.cfg.memSize) (htext : s.sect = .text) (hcell : cellAtPc s = op.value s.cfg)
    (hend : s.cfg.memSize < s.pc.toNat + 1 + op.operands) :
    instructionPosition s =
      .next ((s.advance (s.cfg.memSize - s.pc.toNat)).withRun (.faulted .outOfMemory)) := by
  have hlen := fetchFrom_length_of_short hpc hend
  have hshort : (fetchFrom s (s.pc.toNat + 1) 3).length < op.operands := by omega
  have hsum : s.cfg.memSize - (s.pc.toNat + 1) + 1 = s.cfg.memSize - s.pc.toNat := by omega
  simp only [instructionPosition, fetchCells_head hpc, hcell, isData_of_text htext, decode_of_short hwf hshort, hlen,
    hsum, takeEvent_fault, Bool.false_eq_true, ↓reduceIte]

/-! ### The step at the instruction position -/

/-- Settles O32: a scheduled engine turn is one with the rest of the schedule in its place. -/
theorem stepRunsDecodedInstruction : Obligations.StepRunsDecodedInstruction := by
  refine ⟨fun s i hready hdecode hsection => ?_, fun s i rest hschedule hready hdecode hsection => ?_⟩
  · rw [step_of_engineReady hready, instructionPosition_of_decode hdecode hsection]
  · obtain ⟨-, hrun, hpc, ht, hr⟩ := hready
    have hcells : fetchCells (s.withSchedule rest) = fetchCells s := fetchCells_congr rfl rfl rfl
    rw [step_of_engine hschedule, engineTurn_of_ready (s := s.withSchedule rest) hrun hpc ht hr]
    exact instructionPosition_of_decode (hcells ▸ hdecode) hsection

/-- Settles O33: the fetch gives the encoding and what follows it, which decodes to the instruction. -/
theorem stepRunsInstructionInMemory : Obligations.StepRunsInstructionInMemory := by
  intro s i hcfg hi hready hsection hholds
  obtain ⟨rest, hcells⟩ := fetchCells_of_holdsFrom hholds
  obtain ⟨-, hdecode⟩ := encodeThenDecode s.cfg i rest hcfg hi
  exact stepRunsDecodedInstruction.1 s i hready (hcells ▸ hdecode) hsection

/-- A row without operands runs from its one cell. -/
theorem step_of_operandless {s : State} {i : Instr} (hready : EngineReady s) (hsection : RunsInSection i s)
    (hop : decodeOpcode s.cfg (cellAtPc s) = some i.opcode)
    (hi : ∀ rest, decodeOperands s.cfg i.opcode rest = some i) : step s = exec i s := by
  refine stepRunsDecodedInstruction.1 s i hready ?_ hsection
  rw [fetchCells_head hready.pc_lt]
  exact decode_of_operands hop (hi _)

/-- Settles O9: under the default parameters the zero cell is the opcode of nop. -/
theorem nopOnlyMovesPc : Obligations.NopOnlyMovesPc := by
  refine ⟨fun s => ⟨_, rfl, rfl, onlyPcAndRegs_advance s 1⟩, fun s hcfg hready htext hzero => ?_⟩
  refine step_of_operandless hready (.inl htext) ?_ fun _ => rfl
  rw [hcfg, hzero]
  rfl

theorem decodeOpcode_secData (cfg : Config) : decodeOpcode cfg cfg.secData = some .secData := by
  simp [decodeOpcode, Opcode.all, Opcode.value]

theorem decodeOpcode_secText {cfg : Config} (h : cfg.secText ≠ cfg.secData) :
    decodeOpcode cfg cfg.secText = some .secText := by
  simp [decodeOpcode, Opcode.all, Opcode.value, h.symm]

/-- Settles O22: the two sentinels are compared first, and run in either section. -/
theorem sentinelsSwitchSection : Obligations.SentinelsSwitchSection := by
  refine ⟨fun s => ⟨_, rfl, rfl, rfl, onlyPcAndSection_withSect s 1 _⟩,
    fun s => ⟨_, rfl, rfl, rfl, onlyPcAndSection_withSect s 1 _⟩, fun s hready hcell => ?_,
    fun s hready hcell hne => ?_⟩
  · exact step_of_operandless hready (.inr (.inl rfl)) (hcell ▸ decodeOpcode_secData s.cfg) fun _ => rfl
  · exact step_of_operandless hready (.inr (.inr rfl)) (hcell ▸ decodeOpcode_secText hne) fun _ => rfl

/-- Settles O37: in data the cell at pc is taken before any decoding. -/
theorem dataSectionCopiesCells : Obligations.DataSectionCopiesCells := by
  intro s hready hdata hne hne'
  refine ⟨_, ?_, copiedToWindow_dataCell (cellAtPc s) s⟩
  rw [step_of_engineReady hready, instructionPosition_of_data hready.pc_lt hdata hne hne']

/-- Settles O38: a cell that is no row's value does not decode. -/
theorem unrecognizedCellsReported : Obligations.UnrecognizedCellsReported := by
  intro s hready htext hnone
  refine ⟨_, ?_, reportedOrSkipped_unrecognized (cellAtPc s) s⟩
  rw [step_of_engineReady hready, instructionPosition_of_unrecognized hready.pc_lt htext hnone]

/-! ### Ack (60_exceptions.md R279) -/

/-- The host's Ack of a single step goes on with the suspended iteration, in Running. -/
theorem step_ack_afterTrapCheck {s : State} {rest : List Turn} {cause : AckCause}
    (hschedule : s.schedule = .host .ack :: rest) (hrun : s.run = .awaitAck cause .afterTrapCheck) :
    step s = continueIteration ((s.withSchedule rest).withRun .running) := by
  rw [step_of_host hschedule]
  simp [hostTurn, hostAllowed, hostAck, endSuspension, hrun]

theorem step_ack_of_restart {s : State} {rest : List Turn} {cause : AckCause}
    (hschedule : s.schedule = .host .ack :: rest) (hrun : s.run = .awaitAck cause .afterTrapCheck)
    (hr : s.flags.r = true) : step s = .next (doRestart ((s.withSchedule rest).withRun .running)) :=
  (step_ack_afterTrapCheck hschedule hrun).trans
    (continueIteration_of_restart (s := (s.withSchedule rest).withRun _) hr)

theorem step_ack_of_no_restart {s : State} {rest : List Turn} {cause : AckCause}
    (hschedule : s.schedule = .host .ack :: rest) (hrun : s.run = .awaitAck cause .afterTrapCheck)
    (hr : s.flags.r = false) : step s = instructionPosition ((s.withSchedule rest).withRun .running) :=
  (step_ack_afterTrapCheck hschedule hrun).trans
    (continueIteration_of_no_restart (s := (s.withSchedule rest).withRun _) hr)

/-- Settles O40: by the resume point and, after a single step, by what the instruction position does. -/
theorem ackResumes : Obligations.AckResumes := by
  refine ⟨fun s rest cause hschedule hrun => ?_, fun s rest cause i hschedule hrun hr hdecode hsection => ?_,
    fun s rest cause hschedule hrun hr => ?_, fun s rest cause hschedule hrun hr hpc => ?_⟩
  · exact ⟨_, step_ack_nextIteration hschedule hrun, rfl, rfl, regsSameBut_of_eq [] rfl, memSame_of_eq rfl, ⟨rfl, rfl⟩,
      rfl, rfl, rfl, rfl, rfl⟩
  · have hcells : fetchCells ((s.withSchedule rest).withRun .running) = fetchCells s := fetchCells_congr rfl rfl rfl
    rw [step_ack_of_no_restart hschedule hrun hr]
    exact instructionPosition_of_decode (hcells ▸ hdecode) hsection
  · exact ⟨_, step_ack_of_restart hschedule hrun hr,
      fresh_freshState s.m0 .running ((s.withSchedule rest).withRun .running), rfl, ⟨rfl, rfl⟩, rfl⟩
  · rw [step_ack_of_no_restart hschedule hrun hr]
    refine ⟨fun hdata hne hne' => ?_, fun htext hnone => ?_, fun op hcfg htext hcell hend => ?_⟩
    · exact ⟨_, instructionPosition_of_data hpc hdata hne hne', copiedToWindow_dataCell _ _⟩
    · exact ⟨_, instructionPosition_of_unrecognized hpc htext hnone, reportedOrSkipped_unrecognized _ _⟩
    · exact ⟨_, instructionPosition_of_missing_operands hcfg hpc htext hcell hend, rfl,
        advance_to_memSize_pc hcfg hpc, onlyPcAndRun_withRun (s.withSchedule rest) _ _⟩

/-- Settles O41: for the turn nothing schedules and for the scheduled one. -/
theorem engineStandsStillUnlessRunning : Obligations.EngineStandsStillUnlessRunning := by
  refine fun s hrun => ⟨fun hschedule => ?_, fun rest hschedule => ?_⟩
  · rw [step_of_nil hschedule, engineTurn_of_not_running hrun]
  · rw [step_of_engine hschedule]
    exact engineTurn_of_not_running (s := s.withSchedule rest) hrun

/-! ### The other host operations (00_scope.md R4, 70_reset_and_hazards.md R312, R313) -/

/-- Settles O42: an allowed Load is a fresh state that retains the image. -/
theorem loadInstallsImage : Obligations.LoadInstallsImage := by
  intro s image rest hschedule hallowed
  refine ⟨hostLoad image (s.withSchedule rest), ?_, ?_, rfl, rfl, ⟨rfl, rfl⟩, rfl⟩
  · rw [step_of_host hschedule]
    exact hostTurn_load (s := s.withSchedule rest) hallowed
  · exact fresh_freshState image .idle (s.withSchedule rest)

theorem hostAllowed_start_iff (s : State) : hostAllowed .start s = true ↔ s.run = .idle := decide_eq_true_iff

theorem hostAllowed_ack_iff (s : State) : hostAllowed .ack s = true ↔ ∃ c r, s.run = .awaitAck c r := by
  cases h : s.run <;> simp [hostAllowed, h]

/-- A host operation that is not allowed leaves the state as it is, but for its turn. -/
theorem step_of_refused {s : State} {op : HostOp} {rest : List Turn} (hschedule : s.schedule = .host op :: rest)
    (h : ¬ hostAllowed op (s.withSchedule rest) = true) : step s = .next (s.withSchedule rest) := by
  rw [step_of_host hschedule]
  exact if_neg h

/-- Each of the four obstacles refuses a Load. -/
theorem not_loadAllowed {image : List Cell} {s : State}
    (h : s.run = .running ∨ (∃ c r, s.run = .awaitAck c r) ∨ s.cfg.memSize < image.length
      ∨ (∃ c ∈ image, 2 ^ s.cfg.cellBits ≤ c.toNat)) : ¬ LoadAllowed image s := by
  rintro ⟨hended, hlen, hfit⟩
  rcases h with hrun | ⟨c, r, hrun⟩ | hlong | ⟨c, hc, hwide⟩
  · simp [hrun] at hended
  · simp [hrun] at hended
  · omega
  · exact absurd (hfit c hc) (Nat.not_lt.mpr hwide)

/-- Settles O43: in each case the operation is not allowed. -/
theorem refusedHostOperationsChangeNothing : Obligations.RefusedHostOperationsChangeNothing := by
  refine fun s rest => ⟨fun image hschedule h => ?_, fun hschedule hrun => ?_, fun hschedule hrun => ?_⟩
  · exact step_of_refused hschedule (mt (hostAllowed_load_iff image _).mp (not_loadAllowed (s := s) h))
  · exact step_of_refused hschedule (mt (hostAllowed_start_iff _).mp hrun)
  · exact step_of_refused hschedule (mt (hostAllowed_ack_iff _).mp fun ⟨c, r, e⟩ => hrun c r e)

/-- Settles O44: by the one field each operation sets. -/
theorem hostOperationsChangeOnlyTheirOwn : Obligations.HostOperationsChangeOnlyTheirOwn := by
  refine fun s rest => ⟨fun hschedule hrun => ?_, fun b hschedule => ⟨_, step_of_host hschedule, rfl, rfl⟩,
    fun hschedule => ⟨_, step_of_host hschedule, rfl, rfl⟩, fun hschedule => step_of_host hschedule,
    fun hschedule => ⟨_, step_of_host hschedule, rfl, rfl⟩⟩
  rw [step_of_host hschedule]
  exact if_pos ((hostAllowed_start_iff (s.withSchedule rest)).mpr hrun)

end Sys2Proof.Machine
end

section
/-! What one turn can do, said once: by instruction, by the rest of an iteration, by host operation. The rules of the
whole machine are read off from here. -/

namespace Sys2Proof.Machine

/-! ### The effects of an instruction -/

/-- The instructions that write a coded register (10_state.md R24). -/
def WritesReg (i : Instr) (r : Reg) : Prop :=
  (∃ m d v, i = .mov m d v ∧ designated d = some r)
    ∨ (∃ d, (i = .inc d ∨ i = .dec d) ∧ designated d = some r ∧ r ∈ [Reg.eax, .ebx, .ecx, .edx, .rs])
    ∨ (i.opcode ∈ [Opcode.add, .sub, .mul, .div, .and] ∧ r = .rs)

/-- The raw target cell of a jump (44_jumps.md R210). -/
def jumpTarget : Instr → Option Cell
  | .jmp a | .je _ a | .jne _ a | .jz a | .jnz a => some a
  | .nop | .hlt | .mov _ _ _ | .int _ | .add _ _ | .sub _ _ | .mul _ _ | .div _ _ | .inc _ | .dec _ | .and _ _
  | .uld | .brk | .secData | .secText | .secRom => none

/-- The int code that suspends with a cause (60_exceptions.md R276). -/
def ackCode (cfg : Config) : AckCause → Cell
  | .singleStep => cfg.intSingleStep
  | .breakpoint => cfg.intBreakpoint

/-- What the dispatch of a code answers, once int at `s` has stored it (60_exceptions.md R276, 43_int.md R181). -/
inductive DispatchEffect (s : State) : Cell → State → Prop
  | restarts (heax : s.readReg .eax = s.cfg.sysRestart) :
      DispatchEffect s s.cfg.syscallCode (restartSyscall (storedCode s.cfg.syscallCode s))
  | emits (c : Cell) (e : DisplayEvent) : DispatchEffect s c ((storedCode c s).emitDisplay e)
  | stores (c : Cell) : DispatchEffect s c (storedCode c s)
  | runsOutOfMemory {c : Cell} (h : IntRunsOutOfMemory c s) :
      DispatchEffect s c ((storedCode c s).withRun (.faulted .outOfMemory))
  | doubleFaults :
      DispatchEffect s s.cfg.intDoubleFault ((storedCode s.cfg.intDoubleFault s).withRun (.faulted .doubleFault))
  | suspends (k : AckCause) :
      DispatchEffect s (ackCode s.cfg k) ((storedCode (ackCode s.cfg k) s).withRun (.awaitAck k .nextIteration))
  | reports (c : Cell) (e : ReportEvent) : DispatchEffect s c ((storedCode c s).emitReport e)

/-- What an instruction run at `s` answers. -/
inductive Effect (s : State) : Instr → State → Prop
  | passes (i : Instr) : Effect s i (s.advance i.length)
  | writes {i : Instr} {r : Reg} (v : Word) (h : WritesReg i r) : Effect s i ((s.advance i.length).writeReg r v)
  | jumps {i : Instr} {a : Cell} (h : jumpTarget i = some a) : Effect s i (s.withPc (target a))
  | dividesByZero (v : Value) {w : Value} (h : resolve w s = 0) :
      Effect s (.div v w) ((s.advance 3).withRun (.faulted .divideByZero))
  | halts : Effect s .hlt (halt (s.advance 1))
  | breaks : Effect s .brk ((s.advance 1).withRun (.awaitAck .breakpoint .nextIteration))
  | entersData : Effect s .secData ((s.advance 1).withSect .data)
  | entersText : Effect s .secText ((s.advance 1).withSect .text)
  | romInText : Effect s .secRom (unrecognized s.cfg.secRom s)
  | romInData (h : s.sect = .data) : Effect s .secRom (dataCell s.cfg.secRom s)
  | clears (h : s.dataIndex.toNat = 0 ∨ s.cfg.varLoc + s.dataIndex.toNat ≤ s.cfg.memSize) :
      Effect s .uld (((s.advance 1).withMem
        (Memory.clearRange s.mem s.cfg.varLoc s.dataIndex.toNat)).withDataIndex 0)
  | clearsPart (h : ¬ (s.dataIndex.toNat = 0 ∨ s.cfg.varLoc + s.dataIndex.toNat ≤ s.cfg.memSize)) :
      Effect s .uld (((s.advance 1).withMem (Memory.clearRange s.mem s.cfg.varLoc
        (min s.dataIndex.toNat (s.cfg.memSize - s.cfg.varLoc)))).withRun (.faulted .outOfMemory))
  | lacksCell (c : Cell) (h : s.cfg.memSize ≤ s.cfg.intLoc) :
      Effect s (.int c) ((s.advance 2).withRun (.faulted .outOfMemory))
  | dispatches {c : Cell} {t : State} (hcell : s.cfg.intLoc < s.cfg.memSize) (h : DispatchEffect s c t) :
      Effect s (.int c) t

/-- Write text runs out of memory only where a cell of the text does not exist. -/
theorem writeText_effect {s : State} (heax : s.readReg .eax = s.cfg.sysWrite) (hebx : s.readReg .ebx = 1) :
    DispatchEffect s s.cfg.syscallCode (writeText (storedCode s.cfg.syscallCode s)) := by
  rcases writeText_cases (storedCode s.cfg.syscallCode s) with ⟨-, e⟩ | ⟨hno, e⟩ <;> rw [e]
  · exact .emits _ _
  · have hmissing := mt (cellsExist_iff (storedCode s.cfg.syscallCode s) _ _).mpr (Bool.eq_false_iff.mp hno)
    obtain ⟨hlen, hend⟩ := not_or.mp hmissing
    exact .runsOutOfMemory (.inr (.inr ⟨rfl, heax, hebx, hlen, Nat.not_le.mp hend⟩))

theorem syscall_effect (s : State) :
    DispatchEffect s s.cfg.syscallCode (syscall (storedCode s.cfg.syscallCode s)) := by
  unfold syscall
  split
  · next heax => exact .restarts heax
  · split
    · next heax =>
      split
      · next hebx => exact writeText_effect heax hebx
      · split
        · exact .emits _ _
        · split
          · exact .emits _ _
          · split
            · exact .emits _ _
            · exact .stores _
    · exact .stores _

theorem intDispatch_effect (c : Cell) (s : State) : DispatchEffect s c (intDispatch c s.pc (storedCode c s)) := by
  unfold intDispatch
  split
  · next h =>
    obtain rfl : c = s.cfg.syscallCode := h
    exact syscall_effect s
  · split
    · next h =>
      obtain rfl : c = s.cfg.intSingleStep := h
      exact .suspends .singleStep
    · split
      · next h =>
        obtain rfl : c = s.cfg.intBreakpoint := h
        exact .suspends .breakpoint
      · split
        · next h =>
          obtain rfl : c = s.cfg.intDoubleFault := h
          exact .doubleFaults
        · split
          · next h => exact .runsOutOfMemory (.inr (.inl h))
          · exact .reports c _

theorem jumpIf_effect {i : Instr} {a : Cell} (h : jumpTarget i = some a) (taken : Bool) (s : State) :
    Effect s i (jumpIf taken a i.length s) := by
  cases taken with
  | true => exact .jumps h
  | false => exact .passes i

theorem countBy_effect {i : Instr} {d : Dest} (h : i = .inc d ∨ i = .dec d) (n : Int) (s : State) :
    Effect s i (countBy n d s) := by
  have hlen : i.length = 2 := by rcases h with rfl | rfl <;> rfl
  rcases countBy_cases n d s with ⟨r, hd, hc, e⟩ | ⟨-, e⟩ <;> rw [e, ← hlen]
  · exact .writes _ (.inr (.inl ⟨d, h, hd, (countable_iff r).mp hc⟩))
  · exact .passes i

/-- Every instruction answers a next state, by one of its effects. -/
theorem exec_answers_effect (i : Instr) (s : State) : ∃ t, exec i s = .next t ∧ Effect s i t := by
  cases i with
  | nop => exact ⟨_, rfl, .passes .nop⟩
  | hlt => exact ⟨_, rfl, .halts⟩
  | brk => exact ⟨_, rfl, .breaks⟩
  | secData => exact ⟨_, rfl, .entersData⟩
  | secText => exact ⟨_, rfl, .entersText⟩
  | mov m d v =>
    rcases execMov_cases m d v s with ⟨w, r, -, hd, e⟩ | ⟨-, e⟩
    · exact ⟨_, e, .writes _ (.inl ⟨m, d, v, rfl, hd⟩)⟩
    · exact ⟨_, e, .passes (.mov m d v)⟩
  | add v w | sub v w | mul v w | and v w =>
    exact ⟨_, rfl, .writes _ (.inr (.inr ⟨by simp [Instr.opcode], rfl⟩))⟩
  | div v w =>
    by_cases hw : resolve w s = 0
    · exact ⟨_, if_pos ((sint_eq_zero_iff _).mpr hw), .dividesByZero v hw⟩
    · exact ⟨_, exec_div_of_ne_zero hw v, .writes _ (.inr (.inr ⟨by simp [Instr.opcode], rfl⟩))⟩
  | inc d => exact ⟨_, rfl, countBy_effect (.inl rfl) 1 s⟩
  | dec d => exact ⟨_, rfl, countBy_effect (.inr rfl) (-1) s⟩
  | jmp a => exact ⟨_, rfl, jumpIf_effect (i := .jmp a) rfl true s⟩
  | je v a => exact ⟨_, rfl, jumpIf_effect (i := .je v a) rfl _ s⟩
  | jne v a => exact ⟨_, rfl, jumpIf_effect (i := .jne v a) rfl _ s⟩
  | jz a => exact ⟨_, rfl, jumpIf_effect (i := .jz a) rfl _ s⟩
  | jnz a => exact ⟨_, rfl, jumpIf_effect (i := .jnz a) rfl _ s⟩
  | uld =>
    rcases execUld_cases s with ⟨hyes, e⟩ | ⟨hno, e⟩
    · exact ⟨_, e, .clears ((cellsExist_iff s _ _).mp hyes)⟩
    · exact ⟨_, e, .clearsPart (mt (cellsExist_iff s _ _).mpr (Bool.eq_false_iff.mp hno))⟩
  | secRom =>
    cases hs : s.sect with
    | text => exact ⟨_, exec_secRom_of_text hs, .romInText⟩
    | data => exact ⟨_, exec_secRom_of_data hs, .romInData hs⟩
  | int c =>
    by_cases hcell : s.cfg.intLoc < s.cfg.memSize
    · exact ⟨_, exec_int_of_cell hcell c, .dispatches hcell (intDispatch_effect c s)⟩
    · exact ⟨_, exec_int_without_cell (Nat.not_lt.mp hcell) c, .lacksCell c (Nat.not_lt.mp hcell)⟩

/-- From "it answers such a state" to "the state it answers is such". -/
theorem of_answers {o : Host.Outcome State Fault Refusal} {P : State → Prop} {t : State}
    (h : ∃ u, o = .next u ∧ P u) (e : o = .next t) : P t := by
  obtain ⟨u, hu, hP⟩ := h
  obtain rfl : u = t := by simpa [hu] using e
  exact hP

theorem effect_of_exec {i : Instr} {s t : State} (h : exec i s = .next t) : Effect s i t :=
  of_answers (exec_answers_effect i s) h

/-! ### The effects of a turn -/

/-- What `Continue()` answers (40_cycle.md R130). -/
inductive ContinueEffect (s : State) : State → Prop
  | restarts : ContinueEffect s (doRestart s)
  | copies (c : Cell) (h : 1 ≤ (fetchCells s).length) : ContinueEffect s (dataCell c s)
  | skips (c : Cell) (h : 1 ≤ (fetchCells s).length) : ContinueEffect s (unrecognized c s)
  | runs {i : Instr} {t : State} (hdecode : decode s.cfg (fetchCells s) = .ok i) (h : Effect s i t) :
      ContinueEffect s t
  | lacksCells (n : Nat) (h : n ≤ (fetchCells s).length) :
      ContinueEffect s ((s.advance n).withRun (.faulted .outOfMemory))

/-- A fault with pc where it is, as one that passes over no cell. -/
theorem ContinueEffect.lacksAllCells (s : State) : ContinueEffect s (s.withRun (.faulted .outOfMemory)) := by
  have hstay : s.advance 0 = s := by simp [State.advance, State.withPc]
  rw [← congrArg (State.withRun · (.faulted .outOfMemory)) hstay]
  exact .lacksCells 0 (Nat.zero_le _)

theorem instructionPosition_answers_effect (s : State) :
    ∃ t, instructionPosition s = .next t ∧ ContinueEffect s t := by
  cases hcells : fetchCells s with
  | nil => exact ⟨_, by simp only [instructionPosition, hcells]; rfl, .lacksAllCells s⟩
  | cons c operands =>
    have hlen : (fetchCells s).length = operands.length + 1 := by rw [hcells, List.length_cons]
    have hone : 1 ≤ (fetchCells s).length := by omega
    cases hdata : isData s c with
    | true => exact ⟨_, by simp only [instructionPosition, hcells, hdata, ↓reduceIte], .copies c hone⟩
    | false =>
      cases hdecode : decode s.cfg (c :: operands) with
      | ok i =>
        obtain ⟨t, ht, heffect⟩ := exec_answers_effect i s
        refine ⟨t, ?_, .runs (hcells ▸ hdecode) heffect⟩
        simp only [instructionPosition, hcells, hdata, hdecode, ht, Bool.false_eq_true, ↓reduceIte]
      | error r =>
        simp only [instructionPosition, hcells, hdata, hdecode, Bool.false_eq_true, ↓reduceIte]
        cases r with
        | noCell => exact ⟨_, rfl, .lacksAllCells s⟩
        | unrecognized u => exact ⟨_, rfl, .skips u hone⟩
        | truncated op => exact ⟨_, rfl, .lacksCells _ hlen.ge⟩

theorem continueIteration_answers_effect (s : State) : ∃ t, continueIteration s = .next t ∧ ContinueEffect s t := by
  cases hr : s.flags.r with
  | true => exact ⟨_, continueIteration_of_restart hr, .restarts⟩
  | false =>
    rw [continueIteration_of_no_restart hr]
    exact instructionPosition_answers_effect s

/-- What the engine's turn answers (40_cycle.md R130). -/
inductive EngineEffect (s : State) : State → Prop
  | stands : EngineEffect s s
  | halts (hrun : s.run = .running) : EngineEffect s (halt s)
  | traps (hrun : s.run = .running) (hpc : s.pc.toNat < s.cfg.memSize) :
      EngineEffect s (s.withRun (.awaitAck .singleStep .afterTrapCheck))
  | continues {t : State} (hrun : s.run = .running) (h : ContinueEffect s t) : EngineEffect s t

theorem engineTurn_answers_effect (s : State) : ∃ t, engineTurn s = .next t ∧ EngineEffect s t := by
  by_cases hrun : s.run = .running
  · rw [engineTurn_of_running hrun]
    by_cases hpc : s.pc.toNat < s.cfg.memSize
    · cases ht : s.flags.t with
      | true => exact ⟨_, iteration_of_trap hpc ht, .traps hrun hpc⟩
      | false =>
        obtain ⟨t, hnext, heffect⟩ := continueIteration_answers_effect s
        exact ⟨t, (iteration_of_no_trap hpc ht).trans hnext, .continues hrun heffect⟩
    · exact ⟨_, iteration_of_exhausted (Nat.not_lt.mp hpc), .halts hrun⟩
  · exact ⟨s, engineTurn_of_not_running hrun, .stands⟩

/-- What the host's turn answers (00_scope.md R4). -/
inductive HostEffect (s : State) : HostOp → State → Prop
  | stands (op : HostOp) : HostEffect s op s
  | loads {image : List Cell} (h : LoadAllowed image s) : HostEffect s (.load image) (hostLoad image s)
  | starts (h : s.run = .idle) : HostEffect s .start (s.withRun .running)
  | resumes {cause : AckCause} (hrun : s.run = .awaitAck cause .nextIteration) :
      HostEffect s .ack (s.withRun .running)
  | continues {cause : AckCause} {t : State} (hrun : s.run = .awaitAck cause .afterTrapCheck)
      (h : ContinueEffect (s.withRun .running) t) : HostEffect s .ack t
  | setsTrap (b : Bool) : HostEffect s (.setTrap b) (s.setT b)
  | requestsRestart : HostEffect s .requestRestart s.setR
  | readsPorts : HostEffect s .readPorts (hostReadPorts s)

theorem hostAck_answers_effect (s : State) : ∃ t, hostAck s = .next t ∧ HostEffect s .ack t := by
  unfold hostAck
  split
  · next t h =>
    obtain ⟨⟨cause, hrun⟩, rfl⟩ := endSuspension_some h
    obtain ⟨u, hu, heffect⟩ := continueIteration_answers_effect (s.withRun .running)
    exact ⟨u, hu, .continues hrun heffect⟩
  · next t h =>
    obtain ⟨⟨cause, hrun⟩, rfl⟩ := endSuspension_some h
    exact ⟨_, rfl, .resumes hrun⟩
  · exact ⟨s, rfl, .stands .ack⟩

theorem hostTurn_answers_effect (op : HostOp) (s : State) : ∃ t, hostTurn op s = .next t ∧ HostEffect s op t := by
  by_cases ha : hostAllowed op s = true
  · cases op with
    | load image =>
      have hallowed := (hostAllowed_load_iff image s).mp ha
      exact ⟨_, hostTurn_load hallowed, .loads hallowed⟩
    | start => exact ⟨_, if_pos ha, .starts ((hostAllowed_start_iff s).mp ha)⟩
    | ack =>
      obtain ⟨t, ht, heffect⟩ := hostAck_answers_effect s
      exact ⟨t, (if_pos ha).trans ht, heffect⟩
    | setTrap b => exact ⟨_, rfl, .setsTrap b⟩
    | requestRestart => exact ⟨_, rfl, .requestsRestart⟩
    | readState => exact ⟨_, rfl, .stands .readState⟩
    | readPorts => exact ⟨_, rfl, .readsPorts⟩
  · exact ⟨s, if_neg ha, .stands op⟩

theorem State.withSchedule_self {s : State} {l : List Turn} (h : s.schedule = l) : s.withSchedule l = s := by
  rw [← h]
  rfl

/-- A step is the engine's turn or the host's, with the rest of the schedule left. -/
theorem step_turn (s : State) :
    ∃ rest, (∃ t, step s = .next t ∧ EngineEffect (s.withSchedule rest) t) ∨
      ∃ op t, s.schedule = .host op :: rest ∧ step s = .next t ∧ HostEffect (s.withSchedule rest) op t := by
  cases hs : s.schedule with
  | nil =>
    refine ⟨[], .inl ?_⟩
    rw [step_of_nil hs, State.withSchedule_self hs]
    exact engineTurn_answers_effect s
  | cons turn rest =>
    refine ⟨rest, ?_⟩
    cases turn with
    | engine =>
      rw [step_of_engine hs]
      exact .inl (engineTurn_answers_effect _)
    | host op =>
      obtain ⟨t, ht, heffect⟩ := hostTurn_answers_effect op (s.withSchedule rest)
      exact .inr ⟨op, t, rfl, (step_of_host hs).trans ht, heffect⟩

/-- The turn behind a next state. -/
theorem step_effect {s t : State} (h : step s = .next t) :
    ∃ rest, EngineEffect (s.withSchedule rest) t ∨
      ∃ op, s.schedule = .host op :: rest ∧ HostEffect (s.withSchedule rest) op t := by
  obtain ⟨rest, ⟨u, hu, heffect⟩ | ⟨op, u, hs, hu, heffect⟩⟩ := step_turn s
  · obtain rfl : u = t := by simpa [hu] using h
    exact ⟨rest, .inl heffect⟩
  · obtain rfl : u = t := by simpa [hu] using h
    exact ⟨rest, .inr ⟨op, hs, heffect⟩⟩

end Sys2Proof.Machine
end

section
/-! The invariant of every run (10_state.md sections 2 to 4, 40_cycle.md R133, 46_uld.md R260): each update keeps it
under a condition of its own, and every effect meets the conditions of its updates. -/

namespace Sys2Proof.Machine

/-! ### The invariant at reset, and the widths it bounds -/

/-- Settles O47: the default parameters are well-formed, and everything else is 0 or empty. -/
theorem resetMeetsInvariant : Obligations.ResetMeetsInvariant where
  config := by decide
  memory := State.reset_memory_wf
  image := rfl
  pcBound := Nat.zero_le _
  window := .inl rfl
  suspended := fun _ h => nomatch h
  flags := ⟨rfl, rfl, rfl, rfl, rfl, rfl, rfl⟩

theorem Config.memSize_le {cfg : Config} (h : cfg.wellFormed = true) : cfg.memSize ≤ 2 ^ 32 :=
  (Config.size_bounds h).2.trans (Nat.pow_le_pow_right (by decide) (Config.width_bounds h).1)

/-- Settles O59: each width is a clause of the invariant, with memory no larger than the cell address space. -/
theorem widthsHold : Obligations.WidthsHold := by
  intro s h
  have hpow : 2 ^ s.cfg.cellBits < 2 ^ s.cfg.pcBits := Nat.pow_lt_pow_right (by decide) (Nat.lt_succ_self _)
  have hsize := (Config.size_bounds h.config).2
  have hwindow := h.window
  exact ⟨rfl, Memory.read_lt h.memory, ((s.cfg.imageOk_iff s.m0).mp h.image).2, h.pcBound.trans_lt hpow, by omega⟩

/-! ### The updates that keep the invariant -/

namespace Inv
variable {s : State} (h : Inv s)
include h

theorem withSchedule (l : List Turn) : Inv (s.withSchedule l) :=
  ⟨h.config, h.memory, h.image, h.pcBound, h.window, h.suspended, h.flags⟩

theorem withSect (v : Section) : Inv (s.withSect v) :=
  ⟨h.config, h.memory, h.image, h.pcBound, h.window, h.suspended, h.flags⟩

theorem writeReg (r : Reg) (v : Word) : Inv (s.writeReg r v) :=
  ⟨h.config, h.memory, h.image, h.pcBound, h.window, h.suspended, h.flags⟩

theorem emitDisplay (e : DisplayEvent) : Inv (s.emitDisplay e) :=
  ⟨h.config, h.memory, h.image, h.pcBound, h.window, h.suspended, h.flags⟩

theorem emitReport (e : ReportEvent) : Inv (s.emitReport e) :=
  ⟨h.config, h.memory, h.image, h.pcBound, h.window, h.suspended, h.flags⟩

theorem hostReadPorts : Inv (hostReadPorts s) :=
  ⟨h.config, h.memory, h.image, h.pcBound, h.window, h.suspended, h.flags⟩

theorem setT (b : Bool) : Inv (s.setT b) :=
  ⟨h.config, h.memory, h.image, h.pcBound, h.window, h.suspended, h.flags⟩

theorem setR : Inv s.setR :=
  ⟨h.config, h.memory, h.image, h.pcBound, h.window, h.suspended, h.flags⟩

theorem withMem {m : Memory} (hm : Memory.wf s.cfg.memSize s.cfg.cellBits m = true) : Inv (s.withMem m) :=
  ⟨h.config, hm, h.image, h.pcBound, h.window, h.suspended, h.flags⟩

theorem withDataIndex {v : Addr} (hv : v.toNat = 0 ∨ s.cfg.varLoc + v.toNat ≤ s.cfg.memSize) :
    Inv (s.withDataIndex v) :=
  ⟨h.config, h.memory, h.image, h.pcBound, hv, h.suspended, h.flags⟩

/-- Any run state but a suspension before a fetch asks nothing of pc. -/
theorem withRun {k : RunState} (hk : ∀ cause, k ≠ .awaitAck cause .afterTrapCheck) : Inv (s.withRun k) :=
  ⟨h.config, h.memory, h.image, h.pcBound, h.window, fun cause e => absurd e (hk cause), h.flags⟩

theorem withTrap (hpc : s.pc.toNat < s.cfg.memSize) : Inv (s.withRun (.awaitAck .singleStep .afterTrapCheck)) :=
  ⟨h.config, h.memory, h.image, h.pcBound, h.window, fun cause e => by cases e; exact ⟨rfl, hpc⟩, h.flags⟩

theorem withPc (hrun : s.run = .running) {a : Addr} (ha : a.toNat ≤ 2 ^ s.cfg.cellBits) : Inv (s.withPc a) :=
  ⟨h.config, h.memory, h.image, ha, h.window, fun cause e => by simp [hrun] at e, h.flags⟩

theorem advance (hrun : s.run = .running) {n : Nat} (hn : s.pc.toNat + n ≤ 2 ^ s.cfg.cellBits) :
    Inv (s.advance n) := by
  have hbits : 2 ^ s.cfg.cellBits ≤ 2 ^ 32 := Nat.pow_le_pow_right (by decide) (Config.width_bounds h.config).1
  refine h.withPc hrun ?_
  rw [BitVec.toNat_add, BitVec.toNat_ofNat]
  omega

/-- The cell a write stores is cut to the width of a cell. -/
theorem wf_write_trimCell {a : Nat} (ha : a < s.cfg.memSize) (c : Cell) :
    Memory.wf s.cfg.memSize s.cfg.cellBits (Memory.write s.mem a (s.trimCell c)) = true := by
  refine Memory.wf_write _ h.memory ha ?_
  rw [State.trimCell_toNat]
  exact Nat.mod_lt _ (by positivity)

theorem freshState {image : List Cell} (himage : s.cfg.imageOk image = true) {k : RunState}
    (hk : ∀ cause, k ≠ .awaitAck cause .afterTrapCheck) : Inv (freshState image k s) := by
  obtain ⟨hlen, hfit⟩ := (s.cfg.imageOk_iff image).mp himage
  refine ⟨h.config, ?_, h.image, Nat.zero_le _, .inl rfl, fun cause e => absurd e (hk cause),
    ⟨rfl, rfl, rfl, rfl, rfl, rfl, rfl⟩⟩
  rw [freshState_mem, List.take_of_length_le hlen]
  exact Memory.wf_ofImage image 0 ((Nat.zero_add _).trans_le hlen) hfit

theorem doRestart : Inv (doRestart s) := h.freshState h.image (by simp)

theorem hostLoad {image : List Cell} (hallowed : LoadAllowed image s) : Inv (hostLoad image s) := by
  obtain ⟨-, himage⟩ := hallowed
  have himageOk := (s.cfg.imageOk_iff image).mpr himage
  have hfresh := h.freshState himageOk (k := .idle) (by simp)
  exact ⟨hfresh.config, hfresh.memory, himageOk, hfresh.pcBound, hfresh.window, hfresh.suspended, hfresh.flags⟩

theorem unrecognized (hrun : s.run = .running) (hpc : s.pc.toNat + 1 ≤ 2 ^ s.cfg.cellBits) (c : Cell) :
    Inv (unrecognized c s) := by
  rcases unrecognized_cases c s with ⟨-, e⟩ | ⟨-, e⟩ <;> rw [e]
  · exact h.advance hrun hpc
  · exact (h.advance hrun hpc).emitReport _

/-- The window grows only where the cell after it exists. -/
theorem dataCell (hrun : s.run = .running) (hpc : s.pc.toNat + 1 ≤ 2 ^ s.cfg.cellBits) (c : Cell) :
    Inv (dataCell c s) := by
  have hadvance := h.advance hrun hpc
  rcases dataCell_cases c s with ⟨-, e⟩ | ⟨-, hroom, e⟩ | ⟨-, -, e⟩ <;> rw [e]
  · exact hadvance
  · have hsize := Config.memSize_le h.config
    refine (hadvance.withMem (h.wf_write_trimCell hroom c)).withDataIndex (.inr ?_)
    show s.cfg.varLoc + (s.dataIndex + 1).toNat ≤ s.cfg.memSize
    rw [BitVec.toNat_add, show (1 : Addr).toNat = 1 from rfl]
    omega
  · exact hadvance.withRun (by simp)

end Inv

/-! ### The effects that keep the invariant -/

theorem inv_of_dispatchEffect {s t : State} {c : Cell} (hstored : Inv (storedCode c s)) (h : DispatchEffect s c t) :
    Inv t := by
  cases h with
  | restarts => exact (hstored.doRestart.emitDisplay _).emitDisplay _
  | emits c e => exact hstored.emitDisplay e
  | stores c => exact hstored
  | runsOutOfMemory => exact hstored.withRun (by simp)
  | doubleFaults => exact hstored.withRun (by simp)
  | suspends k => exact hstored.withRun (by simp)
  | reports c e => exact hstored.emitReport e

theorem isCell_of_jumpTarget {cfg : Config} {i : Instr} {a : Cell} (h : jumpTarget i = some a)
    (hi : i.wellFormed cfg = true) : cfg.isCell a = true := by
  cases i with
  | jmp b | jz b | jnz b =>
    cases h
    exact hi
  | je v b | jne v b =>
    cases h
    exact (Bool.and_eq_true_iff.mp hi).2
  | _ => cases h

/-- An instruction whose cells lie below the end of the address space keeps the invariant. -/
theorem inv_of_effect {s t : State} {i : Instr} (hinv : Inv s) (hrun : s.run = .running)
    (hi : i.wellFormed s.cfg = true) (hpc : s.pc.toNat + i.length ≤ 2 ^ s.cfg.cellBits) (h : Effect s i t) : Inv t := by
  have hpast : Inv (s.advance i.length) := hinv.advance hrun hpc
  cases h with
  | passes => exact hpast
  | writes v => exact hpast.writeReg _ v
  | jumps htarget =>
    refine hinv.withPc hrun ?_
    rw [target_toNat]
    exact ((s.cfg.isCell_iff _).mp (isCell_of_jumpTarget htarget hi)).le
  | dividesByZero => exact hpast.withRun (by simp)
  | halts => exact hpast.withRun (by simp)
  | breaks => exact hpast.withRun (by simp)
  | entersData => exact hpast.withSect .data
  | entersText => exact hpast.withSect .text
  | romInText => exact hinv.unrecognized hrun hpc _
  | romInData => exact hinv.dataCell hrun hpc _
  | clears hroom => exact (hpast.withMem (Memory.wf_clearRange _ _ hinv.memory hroom)).withDataIndex (.inl rfl)
  | clearsPart hno => exact absurd hinv.window hno
  | lacksCell => exact hpast.withRun (by simp)
  | dispatches hcell hdispatch =>
    exact inv_of_dispatchEffect (hpast.withMem (hinv.wf_write_trimCell hcell _)) hdispatch

/-- The cells fetched lie in memory, or there are none. -/
theorem pc_add_le_of_fetched {s : State} (hinv : Inv s) {n : Nat} (hn : n ≤ (fetchCells s).length) :
    s.pc.toNat + n ≤ 2 ^ s.cfg.cellBits := by
  have hlen : (fetchCells s).length = min maxLength (s.cfg.memSize - s.pc.toNat) := (fetchFrom_spec s _ _).1
  have hsize := (Config.size_bounds hinv.config).2
  have hbound := hinv.pcBound
  omega

theorem fetchCells_isCell {s : State} (hinv : Inv s) : ∀ c ∈ fetchCells s, s.cfg.isCell c = true := by
  intro c hc
  obtain ⟨j, hj, rfl⟩ := List.getElem_of_mem hc
  rw [s.cfg.isCell_iff]
  exact ((fetchFrom_spec s _ _).2 j hj).2 ▸ Memory.read_lt hinv.memory _

theorem inv_of_continueEffect {s t : State} (hinv : Inv s) (hrun : s.run = .running) (h : ContinueEffect s t) :
    Inv t := by
  cases h with
  | restarts => exact hinv.doRestart
  | copies c hone => exact hinv.dataCell hrun (pc_add_le_of_fetched hinv hone) c
  | skips c hone => exact hinv.unrecognized hrun (pc_add_le_of_fetched hinv hone) c
  | runs hdecode heffect =>
    obtain ⟨hwf, hlen, -⟩ := decodeThenEncode _ _ _ (fetchCells_isCell hinv) hdecode
    exact inv_of_effect hinv hrun hwf (pc_add_le_of_fetched hinv hlen) heffect
  | lacksCells n hn => exact (hinv.advance hrun (pc_add_le_of_fetched hinv hn)).withRun (by simp)

theorem inv_of_engineEffect {s t : State} (hinv : Inv s) (h : EngineEffect s t) : Inv t := by
  cases h with
  | stands => exact hinv
  | halts => exact hinv.withRun (by simp)
  | traps _ hpc => exact hinv.withTrap hpc
  | continues hrun heffect => exact inv_of_continueEffect hinv hrun heffect

theorem inv_of_hostEffect {s t : State} {op : HostOp} (hinv : Inv s) (h : HostEffect s op t) : Inv t := by
  cases h with
  | stands => exact hinv
  | loads hallowed => exact hinv.hostLoad hallowed
  | starts => exact hinv.withRun (by simp)
  | resumes => exact hinv.withRun (by simp)
  | continues hrun heffect => exact inv_of_continueEffect (hinv.withRun (by simp)) rfl heffect
  | setsTrap b => exact hinv.setT b
  | requestsRestart => exact hinv.setR
  | readsPorts => exact hinv.hostReadPorts

/-- Settles O46: the engine's effects and the host's each keep the invariant. -/
theorem stepKeepsInvariant : Obligations.StepKeepsInvariant := by
  intro s t hinv h
  obtain ⟨rest, heffect | ⟨op, -, heffect⟩⟩ := step_effect h
  · exact inv_of_engineEffect (hinv.withSchedule rest) heffect
  · exact inv_of_hostEffect (hinv.withSchedule rest) heffect

end Sys2Proof.Machine
end

section
/-! The rules of the whole machine: what no instruction or no step changes, and which instruction or turn changes what
(10_state.md R24, R29, R33, R36; 20_memory.md R73; 60_exceptions.md R270 to R272, R279, R280, R289). -/

namespace Sys2Proof.Machine

/-! ### Totality and the parameters -/

/-- Settles O45: an instruction answers by its effect, a step by its turn. -/
theorem everyStepAnswersNext : Obligations.EveryStepAnswersNext := by
  refine ⟨fun i s => ?_, fun s => ?_⟩
  · obtain ⟨t, ht, -⟩ := exec_answers_effect i s
    exact ⟨t, ht⟩
  · obtain ⟨-, ⟨t, ht, -⟩ | ⟨-, t, -, ht, -⟩⟩ := step_turn s
    · exact ⟨t, ht⟩
    · exact ⟨t, ht⟩

/-- Settles O57: an allowed Load is the one step that writes more than an instruction does, and it keeps them too. -/
theorem parametersNeverChange : Obligations.ParametersNeverChange := by
  refine ⟨fun i s t h => (of_answers (exec_answers_fixedSame i s) h).cfg, fun s t h => ?_⟩
  rcases step_cases s with ⟨image, rest, -, -, ht⟩ | ⟨u, hu, hcfg, -⟩
  · rw [ht] at h
    cases h
    rfl
  · rw [hu] at h
    cases h
    exact hcfg

/-! ### What the cells that are no instruction leave alone -/

theorem unrecognized_regs (c : Cell) (s : State) : (unrecognized c s).regs = s.regs := by
  rcases unrecognized_cases c s with ⟨-, e⟩ | ⟨-, e⟩ <;> rw [e] <;> rfl

theorem dataCell_regs (c : Cell) (s : State) : (dataCell c s).regs = s.regs := by
  rcases dataCell_cases c s with ⟨-, e⟩ | ⟨-, -, e⟩ | ⟨-, -, e⟩ <;> rw [e] <;> rfl

theorem unrecognized_flags (c : Cell) (s : State) : (unrecognized c s).flags = s.flags := by
  rcases unrecognized_cases c s with ⟨-, e⟩ | ⟨-, e⟩ <;> rw [e] <;> rfl

theorem dataCell_flags (c : Cell) (s : State) : (dataCell c s).flags = s.flags := by
  rcases dataCell_cases c s with ⟨-, e⟩ | ⟨-, -, e⟩ | ⟨-, -, e⟩ <;> rw [e] <;> rfl

theorem unrecognized_mem (c : Cell) (s : State) : (unrecognized c s).mem = s.mem := by
  rcases unrecognized_cases c s with ⟨-, e⟩ | ⟨-, e⟩ <;> rw [e] <;> rfl

theorem unrecognized_run (c : Cell) (s : State) : (unrecognized c s).run = s.run := by
  rcases unrecognized_cases c s with ⟨-, e⟩ | ⟨-, e⟩ <;> rw [e] <;> rfl

theorem dataCell_read_of_ne (c : Cell) {s : State} {a : Nat} (h : a ≠ s.cfg.varLoc + s.dataIndex.toNat) :
    Memory.read (dataCell c s).mem a = Memory.read s.mem a := by
  rcases dataCell_cases c s with ⟨-, e⟩ | ⟨-, -, e⟩ | ⟨-, -, e⟩ <;> rw [e]
  · rfl
  · rw [State.withDataIndex_mem, State.withMem_mem, Memory.read_write, if_neg h]
  · rfl

/-- A data cell changes the run state only by the fault where the cell after the window does not exist. -/
theorem dataCell_run (c : Cell) (s : State) :
    (dataCell c s).run = s.run ∨
      (c ≠ 0 ∧ s.cfg.memSize ≤ s.cfg.varLoc + s.dataIndex.toNat ∧ (dataCell c s).run = .faulted .outOfMemory) := by
  rcases dataCell_cases c s with ⟨-, e⟩ | ⟨-, -, e⟩ | ⟨hne, hend, e⟩ <;> rw [e]
  · exact .inl rfl
  · exact .inl rfl
  · exact .inr ⟨hne, hend, rfl⟩

/-! ### Flags, registers and memory (10_state.md R24, R29; 20_memory.md R73) -/

theorem effect_flags {i : Instr} {s t : State} (h : Effect s i t) :
    t.flags = s.flags ∨ (IsRestart i s ∧ t.flags = Flags.zero) := by
  cases h with
  | romInText => exact .inl (unrecognized_flags _ s)
  | romInData => exact .inl (dataCell_flags _ s)
  | dispatches _ hdispatch =>
    cases hdispatch with
    | restarts heax => exact .inr ⟨⟨rfl, heax⟩, rfl⟩
    | _ => exact .inl rfl
  | _ => exact .inl rfl

/-- Settles O49: by the effects, of which the Restart syscall alone sets the flags. -/
theorem onlyRestartWritesFlags : Obligations.OnlyRestartWritesFlags :=
  fun _ _ _ h => effect_flags (effect_of_exec h)

/-- The register file is as before, or one register is written, or all are 0. -/
theorem effect_regs {i : Instr} {s t : State} (h : Effect s i t) :
    t.regs = s.regs ∨ (∃ r v, WritesReg i r ∧ t.regs = s.regs.write r v)
      ∨ (IsRestart i s ∧ t.regs = RegFile.zero) := by
  cases h with
  | writes v hwrites => exact .inr (.inl ⟨_, v, hwrites, rfl⟩)
  | romInText => exact .inl (unrecognized_regs _ s)
  | romInData => exact .inl (dataCell_regs _ s)
  | dispatches _ hdispatch =>
    cases hdispatch with
    | restarts heax => exact .inr (.inr ⟨⟨rfl, heax⟩, rfl⟩)
    | _ => exact .inl rfl
  | _ => exact .inl rfl

/-- Settles O50: by what the instruction can do to the register file. -/
theorem registerWriters : Obligations.RegisterWriters := by
  refine ⟨fun i s t r h hchanged => ?_, fun i s t h hno => ?_⟩
  · rcases effect_regs (effect_of_exec h) with hregs | ⟨q, v, hwrites, hregs⟩ | ⟨hrestart, hregs⟩
    · exact absurd (State.readReg_congr hregs r) hchanged
    · obtain rfl : r = q := by
        by_contra hne
        exact hchanged (by rw [State.readReg, hregs, RegFile.read_write, if_neg hne, State.readReg])
      exact hwrites.imp_right (Or.imp_right .inl)
    · exact .inr (.inr (.inr ⟨hrestart, by rw [State.readReg, hregs, RegFile.zero_read]⟩))
  · rcases effect_regs (effect_of_exec h) with hregs | ⟨q, v, -, hregs⟩ | ⟨hrestart, -⟩
    · simp [hregs]
    · simp [hregs]
    · exact absurd hrestart hno

theorem read_storedCode_of_ne (c : Cell) {s : State} {a : Nat} (h : a ≠ s.cfg.intLoc) :
    Memory.read (storedCode c s).mem a = Memory.read s.mem a := by
  rw [storedCode, State.withMem_mem, Memory.read_write, if_neg h]

/-- A dispatch that is no restart leaves memory as the store of the code left it. -/
theorem dispatchEffect_mem {c : Cell} {s t : State} (h : DispatchEffect s c t) :
    IsRestart (.int c) s ∨ t.mem = (storedCode c s).mem := by
  cases h with
  | restarts heax => exact .inl ⟨rfl, heax⟩
  | _ => exact .inr rfl

theorem read_clearRange_of_ne {m : Memory} {base n a : Nat}
    (h : Memory.read (Memory.clearRange m base n) a ≠ Memory.read m a) : base ≤ a ∧ a < base + n := by
  by_contra hout
  exact h (by rw [Memory.read_clearRange, if_neg hout])

/-- Settles O51: by the effects that write memory, each of them at its own addresses. -/
theorem memoryWriters : Obligations.MemoryWriters := by
  intro i s t a h hchanged
  cases effect_of_exec h with
  | romInText => exact absurd (by rw [unrecognized_mem]) hchanged
  | romInData hdata =>
    by_cases ha : a = s.cfg.varLoc + s.dataIndex.toNat
    · exact .inr (.inr (.inr ⟨rfl, hdata, ha⟩))
    · exact absurd (dataCell_read_of_ne _ ha) hchanged
  | clears =>
    obtain ⟨hlo, hhi⟩ := read_clearRange_of_ne hchanged
    exact .inr (.inr (.inl ⟨rfl, hlo, hhi⟩))
  | clearsPart =>
    obtain ⟨hlo, hhi⟩ := read_clearRange_of_ne hchanged
    exact .inr (.inr (.inl ⟨rfl, hlo, by omega⟩))
  | @dispatches c _ _ hdispatch =>
    rcases dispatchEffect_mem hdispatch with hrestart | hmem
    · exact .inr (.inl hrestart)
    · by_cases ha : a = s.cfg.intLoc
      · exact .inl ⟨c, rfl, ha⟩
      · exact absurd (hmem ▸ read_storedCode_of_ne c ha) hchanged
  | _ => exact absurd rfl hchanged

/-! ### The sources of events (60_exceptions.md R270, R272, R281) -/

/-- The clauses of `Obligations.EventSources` for an instruction that leaves the engine in the run state `k`. -/
def RaisedBySource (i : Instr) (s : State) (k : RunState) : Prop :=
  (k = .faulted .doubleFault → i = .int s.cfg.intDoubleFault)
    ∧ (k = .faulted .divideByZero → ∃ v w, i = .div v w ∧ resolve w s = 0)
    ∧ (s.dataIndex.toNat = 0 ∨ s.cfg.varLoc + s.dataIndex.toNat ≤ s.cfg.memSize → k = .faulted .outOfMemory →
        (∃ c, i = .int c ∧ IntRunsOutOfMemory c s)
          ∨ (i = .secRom ∧ s.sect = .data ∧ s.cfg.secRom ≠ 0
              ∧ s.cfg.memSize ≤ s.cfg.varLoc + s.dataIndex.toNat))
    ∧ (∀ resume, k = .awaitAck .breakpoint resume →
        resume = .nextIteration ∧ (i = .brk ∨ i = .int s.cfg.intBreakpoint))
    ∧ (∀ resume, k = .awaitAck .singleStep resume → resume = .nextIteration ∧ i = .int s.cfg.intSingleStep)
    ∧ (k = .halted → i = .hlt) ∧ k ≠ .idle

theorem raisedBySource_running (i : Instr) (s : State) : RaisedBySource i s .running := by
  simp [RaisedBySource]

theorem raisedBySource_outOfMemory {i : Instr} {s : State}
    (h : s.dataIndex.toNat = 0 ∨ s.cfg.varLoc + s.dataIndex.toNat ≤ s.cfg.memSize →
      (∃ c, i = .int c ∧ IntRunsOutOfMemory c s)
        ∨ (i = .secRom ∧ s.sect = .data ∧ s.cfg.secRom ≠ 0
            ∧ s.cfg.memSize ≤ s.cfg.varLoc + s.dataIndex.toNat)) :
    RaisedBySource i s (.faulted .outOfMemory) := by
  simpa [RaisedBySource] using h

theorem raisedBySource_of_dispatchEffect {c : Cell} {s t : State} (hrun : s.run = .running)
    (h : DispatchEffect s c t) : RaisedBySource (.int c) s t.run := by
  have hstored : ∀ c, RaisedBySource (.int c) s s.run := fun c => hrun ▸ raisedBySource_running (.int c) s
  cases h with
  | restarts => exact raisedBySource_running _ s
  | emits | stores | reports => exact hstored _
  | runsOutOfMemory hsource => exact raisedBySource_outOfMemory fun _ => .inl ⟨_, rfl, hsource⟩
  | doubleFaults => simp [RaisedBySource]
  | suspends k => cases k <;> simp [RaisedBySource, ackCode]

theorem raisedBySource_of_effect {i : Instr} {s t : State} (hrun : s.run = .running) (h : Effect s i t) :
    RaisedBySource i s t.run := by
  have hquiet : RaisedBySource i s s.run := hrun ▸ raisedBySource_running i s
  cases h with
  | passes | writes | jumps | entersData | entersText | clears => exact hquiet
  | dividesByZero v hzero =>
    simp only [RaisedBySource, State.withRun_run, reduceCtorEq, RunState.faulted.injEq]
    simp [hzero]
  | halts => simp [RaisedBySource]
  | breaks => simp [RaisedBySource]
  | romInText =>
    rw [unrecognized_run]
    exact hquiet
  | romInData hdata =>
    rcases dataCell_run s.cfg.secRom s with e | ⟨hne, hend, e⟩ <;> rw [e]
    · exact hquiet
    · exact raisedBySource_outOfMemory fun _ => .inr ⟨rfl, hdata, hne, hend⟩
  | clearsPart hno => exact raisedBySource_outOfMemory fun hwindow => absurd hwindow hno
  | lacksCell c hno => exact raisedBySource_outOfMemory fun _ => .inl ⟨c, rfl, .inl hno⟩
  | dispatches _ hdispatch => exact raisedBySource_of_dispatchEffect hrun hdispatch

/-- Settles O56: each effect leaves a run state that its instruction is a source of. -/
theorem eventSources : Obligations.EventSources :=
  fun _ _ _ h hrun => raisedBySource_of_effect hrun (effect_of_exec h)

/-! ### The ports (10_state.md R36) -/

/-- Both ports hold what they held, with events after it. -/
def PortsGrow (s t : State) : Prop := s.display <+: t.display ∧ s.report <+: t.report

theorem portsGrow_of_same {s t : State} (h : PortsSame s t) : PortsGrow s t := by
  obtain ⟨hdisplay, hreport⟩ := h
  exact ⟨hdisplay ▸ List.prefix_rfl, hreport ▸ List.prefix_rfl⟩

theorem portsGrow_unrecognized (c : Cell) (s : State) : PortsGrow s (unrecognized c s) := by
  rcases unrecognized_cases c s with ⟨-, e⟩ | ⟨-, e⟩ <;> rw [e]
  · exact portsGrow_of_same ⟨rfl, rfl⟩
  · exact ⟨List.prefix_rfl, List.prefix_append _ _⟩

theorem portsGrow_dataCell (c : Cell) (s : State) : PortsGrow s (dataCell c s) := by
  obtain ⟨-, -, -, hports, -⟩ := copiedToWindow_dataCell c s
  exact portsGrow_of_same hports

theorem portsGrow_of_dispatchEffect {c : Cell} {s t : State} (h : DispatchEffect s c t) : PortsGrow s t := by
  cases h with
  | restarts => exact ⟨(List.prefix_append _ _).trans (List.prefix_append _ _), List.prefix_rfl⟩
  | emits => exact ⟨List.prefix_append _ _, List.prefix_rfl⟩
  | reports => exact ⟨List.prefix_rfl, List.prefix_append _ _⟩
  | stores | runsOutOfMemory | doubleFaults | suspends => exact portsGrow_of_same ⟨rfl, rfl⟩

theorem portsGrow_of_effect {i : Instr} {s t : State} (h : Effect s i t) : PortsGrow s t := by
  cases h with
  | romInText => exact portsGrow_unrecognized _ s
  | romInData => exact portsGrow_dataCell _ s
  | dispatches _ hdispatch => exact portsGrow_of_dispatchEffect hdispatch
  | _ => exact portsGrow_of_same ⟨rfl, rfl⟩

theorem portsGrow_of_continueEffect {s t : State} (h : ContinueEffect s t) : PortsGrow s t := by
  cases h with
  | restarts | lacksCells => exact portsGrow_of_same ⟨rfl, rfl⟩
  | copies c => exact portsGrow_dataCell c s
  | skips c => exact portsGrow_unrecognized c s
  | runs _ heffect => exact portsGrow_of_effect heffect

theorem portsGrow_of_engineEffect {s t : State} (h : EngineEffect s t) : PortsGrow s t := by
  cases h with
  | stands | halts | traps => exact portsGrow_of_same ⟨rfl, rfl⟩
  | continues _ heffect => exact portsGrow_of_continueEffect heffect

theorem hostEffect_ports {s t : State} {op : HostOp} (h : HostEffect s op t) :
    PortsGrow s t ∨ (op = .readPorts ∧ t.display = [] ∧ t.report = []) := by
  cases h with
  | readsPorts => exact .inr ⟨rfl, rfl, rfl⟩
  | continues _ heffect => exact .inl (portsGrow_of_continueEffect (s := s.withRun .running) heffect)
  | _ => exact .inl (portsGrow_of_same ⟨rfl, rfl⟩)

/-- Settles O53: by the turn; no effect but the host's read shortens a port. -/
theorem portsOnlyGrowUntilRead : Obligations.PortsOnlyGrowUntilRead := by
  intro s t h
  obtain ⟨rest, heffect | ⟨op, hs, heffect⟩⟩ := step_effect h
  · exact .inl (portsGrow_of_engineEffect (s := s.withSchedule rest) heffect)
  · rcases hostEffect_ports heffect with hgrow | ⟨rfl, hempty⟩
    · exact .inl hgrow
    · exact .inr ⟨rest, hs, hempty⟩

/-! ### Leaving a wait state (60_exceptions.md R279, R280, R289) -/

/-- The run state and all that only the engine, Load and Ack write are as before. -/
def EngineSame (s t : State) : Prop :=
  t.run = s.run ∧ t.regs = s.regs ∧ t.mem = s.mem ∧ t.pc = s.pc ∧ t.sect = s.sect ∧ t.dataIndex = s.dataIndex

theorem engineSame_refl (s : State) : EngineSame s s := ⟨rfl, rfl, rfl, rfl, rfl, rfl⟩

/-- The host leaves the engine alone, but for what it allows of Load, Start and Ack. -/
theorem hostEffect_engineSame {s t : State} {op : HostOp} (h : HostEffect s op t) :
    EngineSame s t ∨ (∃ image, op = .load image ∧ LoadAllowed image s ∧ t.run = .idle) ∨ s.run = .idle
      ∨ (op = .ack ∧ ∃ cause resume, s.run = .awaitAck cause resume) := by
  cases h with
  | stands | setsTrap | requestsRestart | readsPorts => exact .inl (engineSame_refl s)
  | loads hallowed => exact .inr (.inl ⟨_, rfl, hallowed, rfl⟩)
  | starts hidle => exact .inr (.inr (.inl hidle))
  | resumes hrun => exact .inr (.inr (.inr ⟨rfl, _, _, hrun⟩))
  | continues hrun => exact .inr (.inr (.inr ⟨rfl, _, _, hrun⟩))

theorem engineEffect_of_not_running {s t : State} (hrun : s.run ≠ .running) (h : EngineEffect s t) : t = s := by
  cases h with
  | stands => rfl
  | halts hrunning | traps hrunning | continues hrunning => exact absurd hrunning hrun

/-- Where the engine waits for the host, a step leaves it alone unless it is an allowed Load or Ack. -/
theorem step_of_waiting {s t : State} (hrunning : s.run ≠ .running) (hidle : s.run ≠ .idle) (h : step s = .next t) :
    EngineSame s t
      ∨ (∃ image rest, s.schedule = .host (.load image) :: rest ∧ LoadAllowed image s ∧ t.run = .idle)
      ∨ ∃ rest cause resume, s.schedule = .host .ack :: rest ∧ s.run = .awaitAck cause resume := by
  obtain ⟨rest, heffect | ⟨op, hs, heffect⟩⟩ := step_effect h
  · rw [engineEffect_of_not_running (s := s.withSchedule rest) hrunning heffect]
    exact .inl (engineSame_refl s)
  · rcases hostEffect_engineSame heffect with hsame | ⟨image, rfl, hallowed, hrun⟩ | hrun | ⟨rfl, cause, resume, hrun⟩
    · exact .inl hsame
    · exact .inr (.inl ⟨image, rest, hs, hallowed, hrun⟩)
    · exact absurd hrun hidle
    · exact .inr (.inr ⟨rest, cause, resume, hs, hrun⟩)

/-- Settles O54: an ended engine waits for the host, and no Ack is allowed. -/
theorem onlyLoadLeavesTerminalStates : Obligations.OnlyLoadLeavesTerminalStates := by
  intro s t hended h
  have hrunning : s.run ≠ .running := by rcases hended with e | ⟨cause, e⟩ <;> simp [e]
  have hidle : s.run ≠ .idle := by rcases hended with e | ⟨cause, e⟩ <;> simp [e]
  rcases step_of_waiting hrunning hidle h with hsame | hload | ⟨rest, cause, resume, -, hrun⟩
  · exact .inr hsame
  · exact .inl hload
  · rcases hended with e | ⟨k, e⟩ <;> simp [e] at hrun

/-- Settles O55: a suspended engine waits for the host, and no Load is allowed. -/
theorem onlyAckLeavesAwaitAck : Obligations.OnlyAckLeavesAwaitAck := by
  intro s t cause resume hrun h
  rcases step_of_waiting (by simp [hrun]) (by simp [hrun]) h with hsame | ⟨image, rest, -, hallowed, -⟩ |
      ⟨rest, -, -, hs, -⟩
  · exact .inr hsame
  · exact absurd hallowed (not_loadAllowed (.inr (.inl ⟨cause, resume, hrun⟩)))
  · exact .inl ⟨rest, hs⟩

/-! ### The engine's turn with another schedule (40_cycle.md R130)

No operation reads the schedule, so each one run with another schedule answers the same state with that schedule. -/

/-- An outcome with another schedule in the state it answers. -/
def reschedule (l : List Turn) : Host.Outcome State Fault Refusal → Host.Outcome State Fault Refusal
  | .next t => .next (t.withSchedule l)
  | .fault r => .fault r
  | .refused r => .refused r

theorem State.withSchedule_ite (p : Prop) [Decidable p] (s t : State) (l : List Turn) :
    (if p then s else t).withSchedule l = if p then s.withSchedule l else t.withSchedule l :=
  apply_ite (State.withSchedule · l) p s t

theorem reschedule_ite (p : Prop) [Decidable p] (o o' : Host.Outcome State Fault Refusal) (l : List Turn) :
    reschedule l (if p then o else o') = if p then reschedule l o else reschedule l o' :=
  apply_ite (reschedule l) p o o'

section
variable (s : State) (l : List Turn)

theorem resolve_withSchedule (v : Value) : resolve v (s.withSchedule l) = resolve v s := resolve_congr rfl v

theorem rsEquals_withSchedule (v : Value) : rsEquals v (s.withSchedule l) = rsEquals v s := by
  rw [rsEquals, rsEquals, resolve_withSchedule]
  rfl

theorem State.memWrite_withSchedule (a : Nat) (v : Cell) :
    (s.withSchedule l).memWrite a v = (s.memWrite a v).map (State.withSchedule · l) := by
  rw [State.memWrite, State.memWrite, apply_ite (Except.map _)]
  rfl

theorem jumpIf_withSchedule (taken : Bool) (a : Cell) (n : Nat) :
    jumpIf taken a n (s.withSchedule l) = (jumpIf taken a n s).withSchedule l := by
  rw [jumpIf_eq, jumpIf_eq]
  rfl

theorem countBy_withSchedule (d : Int) (reg : Dest) :
    countBy d reg (s.withSchedule l) = (countBy d reg s).withSchedule l := by
  unfold countBy
  split
  · rw [State.withSchedule_ite]
    rfl
  · rfl

theorem unrecognized_withSchedule (c : Cell) :
    unrecognized c (s.withSchedule l) = (unrecognized c s).withSchedule l := by
  rw [unrecognized, unrecognized, State.withSchedule_ite]
  rfl

theorem dataCell_withSchedule (c : Cell) : dataCell c (s.withSchedule l) = (dataCell c s).withSchedule l := by
  have hwrite : ((s.withSchedule l).advance 1).memWrite
      ((s.withSchedule l).cfg.varLoc + (s.withSchedule l).dataIndex.toNat) c = _ :=
    State.memWrite_withSchedule (s.advance 1) l (s.cfg.varLoc + s.dataIndex.toNat) c
  rw [dataCell, dataCell, State.withSchedule_ite, hwrite]
  cases (s.advance 1).memWrite (s.cfg.varLoc + s.dataIndex.toNat) c <;> rfl

theorem syscall_withSchedule : syscall (s.withSchedule l) = (syscall s).withSchedule l := by
  simp only [syscall, writeText, State.withSchedule_ite]
  rfl

theorem intDispatch_withSchedule (c : Cell) (a : Addr) :
    intDispatch c a (s.withSchedule l) = (intDispatch c a s).withSchedule l := by
  simp only [intDispatch, syscall_withSchedule, State.withSchedule_ite]
  rfl

theorem exec_withSchedule (i : Instr) : exec i (s.withSchedule l) = reschedule l (exec i s) := by
  cases i with
  | nop | hlt | brk | secData | secText => rfl
  | mov m d v =>
    simp only [exec, execMov, resolve_withSchedule]
    cases modeWidth m <;> cases designated d <;> rfl
  | int c =>
    by_cases hcell : s.cfg.intLoc < s.cfg.memSize
    · rw [exec_int_of_cell hcell]
      exact (exec_int_of_cell (s := s.withSchedule l) hcell c).trans
        (congrArg _ (intDispatch_withSchedule (storedCode c s) l c s.pc))
    · rw [exec_int_without_cell (Nat.not_lt.mp hcell)]
      exact exec_int_without_cell (s := s.withSchedule l) (Nat.not_lt.mp hcell) c
  | add v w | sub v w | mul v w | and v w =>
    simp only [exec, execAdd, execSub, execMul, execAnd, resolve_withSchedule]
    rfl
  | div v w =>
    simp only [exec, execDiv, resolve_withSchedule, reschedule_ite]
    rfl
  | inc d => exact congrArg _ (countBy_withSchedule s l 1 d)
  | dec d => exact congrArg _ (countBy_withSchedule s l (-1) d)
  | jmp a => rfl
  | je v a | jne v a =>
    simp only [exec, execJe, execJne, rsEquals_withSchedule, jumpIf_withSchedule]
    rfl
  | jz a => exact congrArg _ (jumpIf_withSchedule s l (rsZero s) a 2)
  | jnz a => exact congrArg _ (jumpIf_withSchedule s l (!rsZero s) a 2)
  | uld =>
    simp only [exec, execUld, reschedule_ite]
    rfl
  | secRom =>
    simp only [exec, execSecRom, State.withSchedule_sect, State.withSchedule_cfg, unrecognized_withSchedule,
      dataCell_withSchedule]
    cases s.sect <;> rfl

theorem instructionPosition_withSchedule :
    instructionPosition (s.withSchedule l) = reschedule l (instructionPosition s) := by
  have hfetch : fetchCells (s.withSchedule l) = fetchCells s := fetchCells_congr rfl rfl rfl
  cases hcells : fetchCells s with
  | nil =>
    simp only [instructionPosition, hfetch, hcells]
    rfl
  | cons c operands =>
    simp only [instructionPosition, hfetch, hcells, reschedule_ite, dataCell_withSchedule]
    refine if_congr Iff.rfl rfl ?_
    cases hdecode : decode s.cfg (c :: operands) with
    | ok i =>
      simp only [State.withSchedule_cfg, hdecode]
      exact exec_withSchedule s l i
    | error r =>
      cases r <;> simp only [State.withSchedule_cfg, hdecode, unrecognized_withSchedule] <;> rfl

theorem engineTurn_withSchedule : engineTurn (s.withSchedule l) = reschedule l (engineTurn s) := by
  by_cases hrun : s.run = .running
  · rw [engineTurn_of_running hrun, engineTurn_of_running (s := s.withSchedule l) hrun]
    simp only [iteration, continueIteration, instructionPosition_withSchedule, reschedule_ite]
    rfl
  · rw [engineTurn_of_not_running hrun]
    exact engineTurn_of_not_running (s := s.withSchedule l) hrun

end

/-- Settles O58: the engine's turn keeps the schedule it is given, and answers the same with any. -/
theorem scheduledEngineTurnDoesTheSame : Obligations.ScheduledEngineTurnDoesTheSame := by
  intro s rest hschedule
  obtain ⟨t, ht, hfixed⟩ := engineTurn_answers_fixedSame (s.withSchedule [])
  refine ⟨t, (step_of_nil rfl).trans ht, hfixed.schedule, ?_⟩
  calc step s = engineTurn (s.withSchedule rest) := step_of_engine hschedule
    _ = reschedule rest (engineTurn (s.withSchedule [])) := engineTurn_withSchedule (s.withSchedule []) rest
    _ = .next (t.withSchedule rest) := congrArg _ ht

end Sys2Proof.Machine
end
